-- ==== Sys2Proof/Word.lean ====
section
/-! DEFINITION. The word types of the Naset (R2, R3): its native word has 36 bits, and the host sees
64-bit lanes. -/

namespace Sys2Proof

/-- A native 36-bit word (R2). -/
abbrev Word := BitVec 36

/-- A 64-bit lane, which carries a word in bits [35:0] (R3), or a BAR0 register. -/
abbrev Lane := BitVec 64

/-- A byte of the Gazetteer's BOARD block or of an SMBus transfer. -/
abbrev Byte := BitVec 8

end Sys2Proof
end

