-- ==== Sys2Proof/Syntax.lean ====
section
/-! DEFINITION. The commands of the block: one constructor per row of spec/opcode_table.json. A mailbox
command names the slot whose posted words firmware takes up; a host access names its value; an event
of the hardware carries what the surroundings contribute to it (a level, a time, a tap code). Times are
on the extended Meridian scale, in gr (R6) or in coarse cycles where the name ends in `Cc`. -/

namespace Sys2Proof

/-- A mailbox slot, 0 to 15. -/
abbrev SlotId := Fin 16

/-- The four ADPLLs of R113. -/
inductive Adpll
  | meridian | engine | store | chart
  deriving DecidableEq, Repr

/-- What a comparator-independent crossing looks like at the pins. `at_` is in gr. -/
structure Crossing where
  ch : Nat
  rising : Bool
  time : Nat
  deriving DecidableEq, Repr

/-- One line's reading of an edge (R63): the line, the coarse count of the reading coarse edge and the tap. -/
structure LineCode where
  line : Nat
  count : Nat
  tap : Nat
  deriving DecidableEq, Repr

/-- One Benchmark launch as a line observed it (R90): launch index and the taps at the first, second
and, where the front was still inside the line, third coarse edge. -/
structure Observation where
  launch : Nat
  d0 : Option Nat
  d1 : Option Nat
  d2 : Option Nat
  deriving DecidableEq, Repr

/-- A run of density-source hits at one tap (R91), in the order in which they came. -/
structure HitRun where
  tap : Nat
  hits : Nat
  deriving DecidableEq, Repr

/-- A Survey group whose work of the closing frame was not complete, for a cause outside the schedule
(R186), with the engine cycles left undone. -/
structure LateGroup where
  group : Nat
  cycles : Nat
  deriving DecidableEq, Repr

/-- What the surroundings contribute to a frame tick: the 24 temperature sensors in 0.125 °C (R96, R414)
and the groups that ran late (R186). -/
structure TickInputs where
  temps : List Int
  late : List LateGroup
  deriving DecidableEq, Repr

/-- The straps as the board holds them (R352, R401). -/
structure Straps where
  bootSrc : BitVec 2
  peWidth : BitVec 2
  devAddr : BitVec 4
  deriving DecidableEq, Repr

/-- The state of the PCIe function that decides whether H sleeps (R341) and whether copies run (R309). -/
structure LinkState where
  d3hot : Bool
  busMaster : Bool
  msixEnable : Bool
  msixFunctionMask : Bool
  linkUp : Bool
  /-- lanes to which the link has trained -/
  lanes : Nat
  deriving DecidableEq, Repr

/-- Which access the host makes to BAR0 or BAR2 (R293, R224). -/
structure HostWrite where
  bar2 : Bool
  offset : Nat
  bytes : Nat
  value : Lane
  deriving DecidableEq, Repr

/-- Where a memory error lies (R388). -/
inductive EccPlace
  /-- the entry of a delay-line table that the stamp path read for an edge -/
  | tableEntry (ch line : Nat)
  | reducerSum (ch : Nat)
  | surveyMemory (group : Nat)
  | compassMemory
  | captureWord (addr : Nat)
  | resultRing
  /-- body word `word` of the staged sheet of that SEQ -/
  | atlasStaging (seq word : Nat)
  /-- word `word` of the body that a sheet copies from a traverse -/
  | traverseWord (traverse word : Nat)
  /-- byte `offset` of the MRAM (R354) -/
  | gazetteer (offset : Nat)
  | otherSram
  deriving DecidableEq, Repr

/-- The events of source 342 (R335). -/
inductive PcieEvent
  | aerError | linkDown | linkRetrain
  deriving DecidableEq, Repr

/-- A firmware image as the DMA read delivers it: its bytes, header first (R357). -/
structure Image where
  bytes : List Byte
  deriving DecidableEq, Repr

/-- One attached NAND target as its ID and parameter page report it (R267, R268). -/
structure Target where
  channel : Nat
  chipEnable : Nat
  oneBit : Bool
  /-- its ID and parameter page are on the qualified-part list of the active firmware -/
  qualified : Bool
  pageKiB : Nat
  /-- bytes of spare area per 4 KiB of main area -/
  spare : Nat
  planes : Nat
  blocksPerPlane : Nat
  pagesPerBlock : Nat
  /-- rated program/erase cycles, tPROG and tBERS in us, all in pSLC -/
  ratedCycles : Nat
  tProg : Nat
  tBers : Nat
  /-- the blocks of the target, plane by plane, with a factory bad-block mark -/
  factoryBad : List Nat
  deriving DecidableEq, Repr

/-- How a codeword read decodes (R271, R285, R290): by hard decisions with a number of corrected bits, by read retry, with
soft information, or not at all. -/
inductive ReadQuality
  | hard (bits : Nat) | retried | soft | uncorrectable
  deriving DecidableEq, Repr

/-- What recovery finds in a codeword that it reads along the stream (R288): a codeword of the journal, a missing or erased
one or one of another FORMAT_ID, or one with the header or trailer of sheet `seq`, whose check fails. -/
inductive CodewordFound
  | journal | foreign | badSheet (seq : Nat)
  deriving DecidableEq, Repr

/-- The attached DisplayPort sink as its EDID and DPCD report it (R257, R133). -/
structure Sink where
  maxRate : Nat
  maxLanes : Nat
  downSpread : Bool
  deriving DecidableEq, Repr

/-- The slot of a GET_CHANNEL_STATUS, and ROSE and FELL of A, ROSE and FELL of B (bit 3 to bit 0) that transitions of the
channel's comparators set at the instant of its clear (R43). -/
structure StatusRead where
  slot : SlotId
  hw : BitVec 4
  deriving DecidableEq, Repr

/-- The commands, in the order of the table. -/
inductive Instr
  | identify (slot : SlotId)
  | getState (slot : SlotId)
  | resetPartition (slot : SlotId)
  | setPolicy (slot : SlotId)
  | getHealth (slot : SlotId)
  | setChannel (slot : SlotId)
  | setLevels (slot : SlotId)
  | autoLevel (slot : SlotId)
  | autoLevelStepEnd
  | autoLevelTrackCycle
  | checkInput (slot : SlotId)
  | getChannelStatus (read : StatusRead)
  | setTimebase (slot : SlotId)
  | setRefPolicy (slot : SlotId)
  | setClkout (slot : SlotId)
  | commitClocks (slot : SlotId)
  | stepBearing (slot : SlotId)
  | setSpread (slot : SlotId)
  | getTimebase (slot : SlotId)
  | setGraticule (slot : SlotId)
  | defineItem (slot : SlotId)
  | coefficientChunk (slot : SlotId)
  | deleteItem (slot : SlotId)
  | arm (slot : SlotId)
  | start (slot : SlotId)
  | hold (slot : SlotId)
  | resume (slot : SlotId)
  | stop (slot : SlotId)
  | readReadings (slot : SlotId)
  | setResultRing (slot : SlotId)
  | getBudget (slot : SlotId)
  | calibrate (slot : SlotId)
  | setCalPolicy (slot : SlotId)
  | deskew (slot : SlotId)
  | getCal (slot : SlotId)
  | freezeCal (slot : SlotId)
  | defineTraverse (slot : SlotId)
  | resizeTraverse (slot : SlotId)
  | deleteTraverse (slot : SlotId)
  | freezeTraverse (slot : SlotId)
  | defineContour (slot : SlotId)
  | clearContour (slot : SlotId)
  | defineChartBuffer (slot : SlotId)
  | setChartMode (slot : SlotId)
  | setLegend (slot : SlotId)
  | setCrcRect (slot : SlotId)
  | renderContour (slot : SlotId)
  /-- the render with target buffer `buffer` starts at the tick just opened -/
  | renderStart (buffer : Nat)
  | renderDone (buffer : Nat)
  /-- `targets` are the flash parts found on the ONFI channels -/
  | atlasFormat (slot : SlotId) (targets : List Target)
  | atlasOpen (slot : SlotId) (targets : List Target)
  | atlasAppendPolicy (slot : SlotId)
  | atlasRead (slot : SlotId)
  | atlasFence (slot : SlotId)
  | atlasHealth (slot : SlotId)
  | atlasScrub (slot : SlotId)
  | storeSettings (slot : SlotId)
  | loadSettings (slot : SlotId)
  | updateFirmware (slot : SlotId)
  | activateFirmware (slot : SlotId)
  | getHoldup (slot : SlotId)
  | defineMask (slot : SlotId)
  | setTriggerRoute (slot : SlotId)
  | forceTrigger (slot : SlotId)
  | alignArm (slot : SlotId)
  | alignMeasure (slot : SlotId)
  | alignApply (slot : SlotId)
  | alignApplyTimeout
  /-- `fails` are the tests that the hardware fails, `badChannels` the channels that fail test 2 -/
  | selfTest (slot : SlotId) (fails : List Nat) (badChannels : List Nat)
  | setMonitor (slot : SlotId)
  | hostLoad
  | mbCancel (slot : SlotId) (tag : BitVec 16)
  /-- `hw` are the bits that hardware sets in the cycle in which the write arrives (R25) -/
  | gsFlagsWrite (value hw : Lane)
  | wmLatchWrite (value hw : Lane)
  | erFaultWrite (value hw : Lane)
  | erWakeWrite (value hw : Lane)
  | tvRcWrite (traverse : Nat) (value : Lane)
  | gsRingHrcWrite (value : Lane)
  | cpCommit (value : Lane)
  | erPendWrite (k : Nat) (value : Lane)
  | erSrcCfgWrite (n : Nat) (value : Lane)
  | erLostClear (value : Lane)
  | erClaimH
  | erCompleteH (value : Lane)
  | erCompleteFlush
  | registerWrite (w : HostWrite)
  | hostSleepChange (link : LinkState)
  | smbusBlockRead (command : Byte)
  | smbusBlockWrite (command : Byte) (count : Nat) (pecGood : Bool) (value hw : Lane)
  | alertResponse
  | smbusTimeout
  | gzBoardUpdate (bits : BitVec 512)
  | comparatorAEdge (x : Crossing)
  | comparatorBEdge (x : Crossing)
  | lineRead (ch : Nat) (codes : List LineCode)
  /-- at coarse edge `nowCc`; `parityBad` where a domain crossing finds the stamp damaged (R75) -/
  | stampRetire (ch : Nat) (nowCc : Nat) (parityBad : Bool)
  | stampCheck (ch : Nat) (nowCc : Nat) (parityGood : Bool) (mismatch : Bool) (codes : Nat)
  | coarseMismatch
  | comparatorSettled (ch : Nat) (compB : Bool) (above : Bool) (time : Nat)
  | frameTick (inputs : TickInputs)
  | digestClose (ch : Nat)
  | lutCandidateBuilt (ch line : Nat) (hits : List HitRun) (obs : List Observation)
  | trigOutActive (line : Nat)
  | trigOutInactive (line : Nat)
  /-- the synchroniser output of TRIG line `line` changes in coarse cycle `nowCc` -/
  | trigEdge (line : Nat) (high : Bool) (nowCc : Nat)
  | traverseCommit (traverse : Nat)
  | contourDecay (map : Nat)
  | levelEyeStep (map : Nat)
  /-- `mean` is the fractional frequency of the last second, in 10^-12 -/
  | stabilityEvaluation (mean : Int)
  | thermalEvaluation (temps : List Int)
  | thermalHw
  /-- the readings of a rising REF_IN edge by the four active lines of its path -/
  | refEdge (codes : List LineCode)
  | refWindowEnd
  | refAbsent
  | refReturn
  | refWalkEnd
  /-- `count` is the DCO count of the lock window, which ends at coarse count `at_` of the extended scale (R115) -/
  | lockWindowEnd (pll : Adpll) (count at_ : Nat)
  | coarseWrap
  /-- a marker, and the readings of its first edge by the lines of the SYNC_IN path -/
  | syncMarker (bits : BitVec 152) (codes : List LineCode)
  /-- the readings of a probe's edge by the lines of the SYNC_OUT path -/
  | syncProbeReceived (codes : List LineCode)
  /-- the readings of an echo's edge by the lines of the SYNC_IN path -/
  | probeEcho (first : LineCode) (rest : List LineCode)
  | alignMeasureDone
  | eventSourceAssert (source : Nat) (level : Bool)
  /-- monitor `m` now reports `report`: 0 inside, 1 BELOW, 2 ABOVE (R57) -/
  | monitorExcursion (m : Nat) (report : Fin 3)
  | supplyFault (m : Nat)
  | latchPeriodEnd (m : Nat)
  /-- the largest code that the divided hold-up voltage reaches (R372) -/
  | holdupMeasured (code : Nat)
  | pwrFail
  | pwrFailClear
  | powerOnReset (straps : Straps)
  | perstNAssert
  | perstNRelease (straps : Straps)
  | bootEnd
  | watchdog
  | partitionReady (part : Nat)
  | partitionStuck (part : Nat)
  | eccError (place : EccPlace) (corrected : Bool)
  | memoryScrub (corrected : Nat)
  | ringCopyDone
  | linkEvent (e : PcieEvent)
  | chartFrameStart
  | chartLatchPoint
  /-- line `line` ran out of data at pixel `firstMissing` -/
  | chartUnderrun (line firstMissing : Nat)
  | hpdLoss
  | hpdReturn (sink : Sink)
  | hpdIrq (linkGood : Bool)
  /-- a NAND program (`erase = false`) or erase on a channel completes with its status -/
  | flashProgramDone (channel : Nat) (erase : Bool) (good : Bool)
  /-- at hour `hour` of firmware's clock the pass reads the codewords of a block, page by page (R285) -/
  | scrubPass (hour block : Nat) (codewords : List ReadQuality)
  | ocxoWarmChange (level : Bool)
  | mbDoorbell (slot : SlotId) (tag : BitVec 16)
  | erPendRead (k : Nat)
  | powerLoss
  | gazetteerWriteDone (good : Bool)
  /-- `none`: the host read failed -/
  | imageDmaReadDone (image : Option Image)
  | flashReadDone (channel : Nat) (quality : ReadQuality) (found : CodewordFound)
  | linkTrainingDone (good : Bool)
  deriving DecidableEq, Repr

end Sys2Proof
end

