-- ==== Sys2Proof/Config.lean ====
section
/-! DEFINITION. What the spec leaves open: constants of one device that the manual does not number, and the
free values, uninterpreted functions that no proof can evaluate. A claim holds whatever they are. -/

namespace Sys2Proof.Config

/-- Silicon revision, GS_ID[31:24] (live); the manual gives no number (DESIGN CHOICE, log 21). -/
opaque siRev : BitVec 8

/-- The output of an UNSETTLED comparator, undefined under R45, as the `n`-th look at it finds it (DESIGN CHOICE, log 15). -/
opaque unsettledOutput : Nat → Bool

/-- By how much a bin of a spectrum differs from its exact value, in 2^-40 gr²: R209 bounds it to 2^-24 of that value, and
states no bits. Arguments: window code, r, the record less its mean, bin (DESIGN CHOICE, log 16). -/
opaque spectrumError : Nat → Nat → List Int → Nat → Int

/-- The engine, of the four of its group, on which the work of an item runs: the manual does not say (DESIGN CHOICE,
log 144). -/
opaque engineOf : Nat → Fin 4

/-- The natural frequency of the outer loop at a code of OUTER_BW, in 10^-9 rad/s: R122 gives the loop's damping and
bandwidth, and not which bandwidth of a loop is meant (DESIGN CHOICE, log 17). -/
opaque loopOmega : Nat → Nat

/-- f_DCO of the Engine (1), Store (2) or Chart PLL (3) in Hz; for the Chart PLL at a mode and a link rate. The manual gives
no number (DESIGN CHOICE, log 141). -/
opaque dcoHz : Nat → Nat → Nat

/-- The DRAM controller clock in Hz; the manual gives no number (DESIGN CHOICE, log 141). -/
opaque storeHz : Nat

/-- DCO cycles that a step of a search counts over 2^10 reference cycles (R115). Arguments: the number of the search, the
ADPLL, the coarse band, the fine code (DESIGN CHOICE, log 141). -/
opaque dcoCount : Nat → Nat → Nat → Nat → Nat

/-- The lines that Chart timing has gone on, by the free value's number, since the line counter was last known; the counter
stays on its side of the latch point (log 82). -/
opaque chartLines : Nat → Nat

/-- A value that the spec does not state at all, as the `n`-th use of it finds it (DESIGN CHOICE, log 14, 18 to 20). -/
opaque unstated : Nat → Nat

/-- Firmware has parked a Compass core, its running priority and its FLOOR, of which the spec gives no rule: from the `n`-th tick
at which firmware settles them (DESIGN CHOICE, log 93). -/
opaque coreParked : Nat → Nat → Bool
opaque corePriority : Nat → Nat → Nat
opaque coreFloor : Nat → Nat → Nat

/-- The Benchmark edge at coarse offset 2 of a frame rises (R50 gives the edges' times, not their senses; DESIGN CHOICE,
log 21). -/
opaque benchRises : Bool

/-- The factory-known delay of CAL_OUT, in gr (R111 gives no number; DESIGN CHOICE, log 21). -/
opaque calOutDelay : Int

/-- FW_VERSION that the recovery image in mask ROM reports (the manual gives no number; DESIGN CHOICE, log 21). -/
opaque recoveryVersion : BitVec 24

/-- FORMAT of the settings banks that firmware of a version writes, and whether firmware of a version reads a FORMAT: R367 gives
no numbers (DESIGN CHOICE, log 150). -/
opaque formatOf : BitVec 24 → BitVec 16
opaque readsFormat : BitVec 24 → BitVec 16 → Bool

/-- The payload of the `n`-th settings bank as bytes, of which the spec gives no layout (DESIGN CHOICE, log 150). -/
opaque payload : Nat → List Byte

end Sys2Proof.Config
end

