-- ==== Sys2Proof/Machine/Bits.lean ====
section
/-! DEFINITION. Fields of words, words from fields, big-word-first values (R2 to R4, R9, R10 of the value
formats), rounding (R157), BF36 (R210), CRCs (R138, R264). -/

/-- Every entry of a list changed, each knowing its number. -/
def List.mapNum {α β : Type} (f : Nat → α → β) (l : List α) : List β := l.zipIdx.map fun x => f x.2 x.1

namespace Sys2Proof.Machine

/-- Field [hi:lo] of a word (R2). -/
def fld {n : Nat} (w : BitVec n) (hi lo : Nat) : Nat := (w.toNat >>> lo) % 2 ^ (hi + 1 - lo)

/-- One bit of a word. -/
def bit {n : Nat} (w : BitVec n) (i : Nat) : Bool := w.getLsbD i

/-- The number whose fields [hi:lo] hold the values given, each cut to its width. -/
def packNat : List (Nat × Nat × Nat) → Nat
  | [] => 0
  | (hi, lo, v) :: r => (v % 2 ^ (hi + 1 - lo)) * 2 ^ lo + packNat r

/-- A 36-bit word of fields. -/
def word (fs : List (Nat × Nat × Nat)) : Word := BitVec.ofNat 36 (packNat fs)

/-- A 64-bit lane of fields. -/
def lane (fs : List (Nat × Nat × Nat)) : Lane := BitVec.ofNat 64 (packNat fs)

def b2n (b : Bool) : Nat := if b then 1 else 0

/-- The residue of an integer modulo 2^n: its two's complement code. -/
def codeOf (n : Nat) (x : Int) : Nat := (x % (2 ^ n : Nat)).toNat

/-- The integer of an n-bit two's complement code. -/
def signed (n x : Nat) : Int := if x % 2 ^ n < 2 ^ (n - 1) then ((x % 2 ^ n : Nat) : Int) else (x % 2 ^ n : Nat) - (2 ^ n : Nat)

/-- A word that carries n in [35:0]. -/
def w36 (n : Nat) : Word := BitVec.ofNat 36 n

/-- A 72-bit unsigned value as words A and B (R4). -/
def words72 (n : Nat) : List Word := [w36 (n / 2 ^ 36), w36 n]

/-- A 72-bit signed value as words A and B (T72, TM72). -/
def wordsT72 (x : Int) : List Word := words72 (codeOf 72 x)

/-- A 108-bit value as three words (R180). -/
def words108 (x : Int) : List Word :=
  let n := codeOf 108 x
  [w36 (n / 2 ^ 72), w36 (n / 2 ^ 36), w36 n]

/-- The 72-bit value of two words, most significant first (R4). -/
def nat72 (a b : Word) : Nat := a.toNat * 2 ^ 36 + b.toNat

/-- A Frame40 value of two words (R321). -/
def nat40 (a b : Word) : Nat := fld a 3 0 * 2 ^ 36 + b.toNat

/-- Frame40 of a number. -/
def words40 (n : Nat) : List Word := [w36 (n / 2 ^ 36 % 16), w36 n]

/-- An Addr64 value of two words (R321). -/
def nat64 (a b : Word) : Nat := fld a 27 0 * 2 ^ 36 + b.toNat

/-- Addr64 of a number. -/
def words64 (n : Nat) : List Word := [w36 (n / 2 ^ 36 % 2 ^ 28), w36 n]

/-! ## Rounding -/

/-- n / d to the nearest integer, half up; 0 for d = 0. -/
def roundDiv (n : Int) (d : Nat) : Int := if d = 0 then 0 else (2 * n + d) / (2 * d)

/-- n / d rounded up. -/
def ceilDiv (n d : Nat) : Nat := if d = 0 then 0 else (n + d - 1) / d

/-- One step of the bitwise square root. -/
def sqrtStep (n : Nat) : Nat → Nat → Nat
  | 0, r => if (r + 1) * (r + 1) ≤ n then r + 1 else r
  | b + 1, r =>
    let c := r + 2 ^ (b + 1)
    sqrtStep n b (if c * c ≤ n then c else r)

/-- The integer square root, rounded down (R157). -/
def isqrt (n : Nat) : Nat := sqrtStep n (Nat.log2 n / 2 + 1) 0

/-- √(n / d) × s rounded down: the largest r with r² × d ≤ n × s². -/
def sqrtFrac (n d s : Nat) : Nat := if d = 0 then 0 else isqrt (n * s * s / d)

/-- Clamped to a signed width; and whether it was clamped. -/
def clampS (n : Nat) (x : Int) : Int :=
  if x < -(2 ^ (n - 1) : Nat) then -(2 ^ (n - 1) : Nat)
  else if x > (2 ^ (n - 1) : Nat) - 1 then (2 ^ (n - 1) : Nat) - 1 else x

def clampU (n x : Nat) : Nat := min x (2 ^ n - 1)

/-- A word clamped to 36 bits, and whether it was. -/
def clampWord (n : Nat) : Word × Bool := (w36 (clampU 36 n), decide (clampU 36 n ≠ n))

/-! ## BF36 (R210) -/

/-- The value of a BF36 word in units of 2^-40. -/
def bfValue (w : Word) : Nat := fld w 29 0 * 2 ^ fld w 35 30

/-- The least exponent from e on, with the fuel given, for which n / 2^e (n over d in units of 2^-40) rounds
below 2^30. -/
def bfExp (n d : Nat) : Nat → Nat → Nat
  | 0, e => e
  | f + 1, e => if (2 * n + d * 2 ^ e) / (2 * d * 2 ^ e) < 2 ^ 30 then e else bfExp n d f (e + 1)

/-- The BF36 word of n / d, in units of 2^-40, and whether no exponent fits. -/
def bfCode (n d : Nat) : Word × Bool :=
  if n = 0 ∨ d = 0 then (0, false)
  else
    let e := bfExp n d 64 0
    if e > 63 then (word [(35, 30, 63), (29, 0, 2 ^ 30 - 1)], true)
    else (word [(35, 30, e), (29, 0, (2 * n + d * 2 ^ e) / (2 * d * 2 ^ e))], false)

/-! ## CRCs -/

/-- One bit of a CRC with the most significant bit first. -/
def crcMsbStep (width poly : Nat) (c : Nat) (b : Bool) : Nat :=
  let top := c.testBit (width - 1) != b
  let s := c * 2 % 2 ^ width
  if top then s ^^^ poly else s

/-- CRC-16 of R138 over bits, first bit first. -/
def crc16 (bits : List Bool) : Nat := bits.foldl (crcMsbStep 16 0x1021) 0xFFFF

/-- One bit of the reflected CRC-32. -/
def crc32Bit (c : Nat) : Nat := if c % 2 = 1 then (c / 2) ^^^ 0xEDB88320 else c / 2

/-- One byte of the reflected CRC-32. -/
def crc32Byte (c b : Nat) : Nat :=
  crc32Bit (crc32Bit (crc32Bit (crc32Bit (crc32Bit (crc32Bit (crc32Bit (crc32Bit (c ^^^ (b % 256)))))))))

/-- CRC-32 of R264 over bytes. -/
def crc32 (bytes : List Nat) : Nat := bytes.foldl crc32Byte 0xFFFFFFFF ^^^ 0xFFFFFFFF

/-- A word as 5 bytes, most significant first, the high 4 bits zero (R272). -/
def wordBytes (w : Word) : List Nat :=
  let n := w.toNat
  [n / 2 ^ 32 % 256, n / 2 ^ 24 % 256, n / 2 ^ 16 % 256, n / 2 ^ 8 % 256, n % 256]

/-- CRC-32 over words, each taken as 5 bytes. -/
def crcWords (ws : List Word) : Nat := crc32 (ws.flatMap wordBytes)

/-! ## Lists indexed by number -/

/-- Entry i, or the value given where there is none. -/
def at_ {α : Type} (l : List α) (i : Nat) (d : α) : α := l.getD i d

/-- Numbers lo to hi inclusive. -/
def range2 (lo hi : Nat) : List Nat := (List.range (hi + 1 - lo)).map (· + lo)

/-- The numbers whose bit is set in a mask. -/
def maskList (n m : Nat) : List Nat := (List.range n).filter fun i => m.testBit i

/-- The mask of the numbers listed. -/
def listMask : List Nat → Nat
  | [] => 0
  | i :: r => (2 ^ i) ||| listMask r

/-- A channel mask of three words as channel numbers (R321). -/
def channelMask (a b c : Word) : List Nat :=
  maskList 96 (fld a 31 0 + fld b 31 0 * 2 ^ 32 + fld c 31 0 * 2 ^ 64)

/-- Three channel-mask words. -/
def channelMaskWords (chs : List Nat) : List Word :=
  let m := listMask chs
  [w36 (m % 2 ^ 32), w36 (m / 2 ^ 32 % 2 ^ 32), w36 (m / 2 ^ 64 % 2 ^ 32)]

/-- A line map of 14 words: bit 5 × (c mod 7) + l of word c / 7 (R321). -/
def lineMapWords (ls : List (Nat × Nat)) : List Word :=
  (List.range 14).map fun j =>
    w36 (listMask ((ls.filter fun x => x.1 / 7 == j).map fun x => 5 * (x.1 % 7) + x.2))

def sumN (l : List Nat) : Nat := l.foldl (· + ·) 0
def sumI (l : List Int) : Int := l.foldl (· + ·) 0

/-- The largest of a list, 0 if empty. -/
def maxN (l : List Nat) : Nat := l.foldl max 0

/-- The extremes of a list of integers, (0, 0) if empty. -/
def minMax : List Int → Int × Int
  | [] => (0, 0)
  | x :: r => r.foldl (fun m y => (min m.1 y, max m.2 y)) (x, x)

/-- A list filled up to n entries with the value given, or cut to n. -/
def fit {α : Type} (n : Nat) (d : α) (l : List α) : List α := (l ++ List.replicate (n - l.length) d).take n

end Sys2Proof.Machine
end

