-- ==== Sys2Proof/Machine/State.lean ====
section
/-! DEFINITION. The state of the Naset as plain data, block by block, and its value after power-on reset.
Times on the extended Meridian scale are `Nat` (epoch × 2^48 + coarse in coarse cycles, × 4,096 in gr).
A list with one entry per channel, line, source, slot or partition is indexed by its number. -/

namespace Sys2Proof.Machine

/-- Why the machine stops. No command of this block stops: the spec gives each its effect. The one
constructor marks a step that cannot be taken. -/
inductive Fault
  /-- raised by no meaning; kept so that the type is inhabited. Safe. -/
  | never
  deriving DecidableEq, Repr

/-- Why a command has no meaning. -/
inductive Refusal
  /-- raised by an arm of `exec` whose command is not modelled; no meaning answers with it. Safe. -/
  | notModelled (mnemonic : String)
  deriving DecidableEq, Repr

/-! ## Global status -/

/-- The operating states of R311. -/
inductive OpState
  | boot | ready | armed | surveying | hold | calibrating | updating | safe | fault
  deriving DecidableEq, Repr

/-- The transitions that wait for a tick (R312, R314). -/
inductive Transition
  | start | hold | resume | stop
  /-- ARM, or STOP from ARMED, accepted while another transition waits (R314) -/
  | arm | disarm
  deriving DecidableEq, Repr

/-- The GS block (12) but for the time base and the ring: GS_STATE, GS_FLAGS and their collision counter. -/
structure Global where
  op : OpState
  lastError : BitVec 8
  gen : BitVec 16
  /-- epoch increments since power-on; GS_STATE[43:32] shows the low 12 bits (R98) -/
  epochs : Nat
  strict : Bool
  flags : Lane
  flagsAgain : BitVec 16
  /-- version of the running firmware, zero during BOOT (R8) -/
  fwVersion : BitVec 24
  /-- transitions accepted and not yet taken, each with the tick at which it takes place (R314) -/
  transitions : List (Nat × Transition)
  /-- fault code of the last entry into SAFE or FAULT (R382) -/
  faultCode : Nat
  /-- some cause since entry is left only by PERST_N or power-on reset (R384) -/
  hardExit : Bool
  /-- state to return to when UPDATING ends (R312) -/
  before : OpState
  /-- the next free value to be used -/
  free : Nat
  deriving DecidableEq, Repr

/-! ## Mailbox -/

/-- SLOT_STATE of MB_STATUS. -/
inductive SlotState
  | free | posted | accepted | running | done | failed
  deriving DecidableEq, Repr

/-- One mailbox slot (12): MB_STATUS, MB_CMD and MB_RESP. -/
structure Slot where
  tag : BitVec 16
  partialWords : Nat
  progress : Nat
  error : BitVec 8
  st : SlotState
  cmd : List Word
  resp : List Word
  deriving DecidableEq, Repr

/-- The command interface: 16 slots, the doorbell order, MSI-X and the PCIe function's own state. -/
structure HostLink where
  slots : List Slot
  /-- posted slots in doorbell order (R297) -/
  queue : List Nat
  link : LinkState
  /-- MSI-X table lanes, 2 per vector, and the vectors held pending (R304) -/
  msixTable : List Lane
  msixPending : List Nat
  /-- vectors signalled so far, newest first -/
  msixSent : List Nat
  /-- the value that the last host or SMBus read returned -/
  readValue : Lane
  /-- writes logged through AER as unsupported requests (R293) -/
  aerCount : Nat
  deriving DecidableEq, Repr

/-- SET_RESULT_RING settings (R308). -/
structure RingCfg where
  dma : Bool
  hbase : BitVec 64
  hlenLog2 : Nat
  wb : BitVec 64
  notify : Bool
  notifyEvery : Nat
  deriving DecidableEq, Repr

/-- A batch offered to the copy engine and not yet written (R309). -/
structure CopyJob where
  words : List Word
  readings : Nat
  /-- batches dropped between the batch queued before it and this one -/
  dropped : Nat
  deriving DecidableEq, Repr

/-- The result ring, its host copy and its counters (R307 to R310). -/
structure Ring where
  wc : Nat
  cfg : RingCfg
  pendingCfg : Option (Nat × RingCfg)
  hwc : Nat
  hrc : Nat
  dropBatches : Nat
  dropReadings : Nat
  /-- dropped since the previous copied batch (R307) -/
  droppedRun : Nat
  jobs : List CopyJob
  batchCount : Nat
  /-- a batch of the ring met an uncorrectable word (R388) -/
  damaged : Bool
  /-- lanes written to host memory by the last copy: address and value -/
  hostWrites : List (Nat × Lane)
  deriving DecidableEq, Repr

/-! ## Front end -/

/-- TERM (R29). -/
inductive Term | opn | vtt50 | diff100
  deriving DecidableEq, Repr

/-- MODE_A and MODE_B (R29, R37). -/
inductive CompMode | park | track | fast
  deriving DecidableEq, Repr

/-- B_FUNC (R40). -/
inductive BFunc | level | window | runtReject | runtOnly | partner
  deriving DecidableEq, Repr

/-- Line modes (R66). -/
inductive LineMode | single | dual | quad
  deriving DecidableEq, Repr

/-- EDGE_SEL (R148). -/
inductive EdgeSel | both | rise | fall
  deriving DecidableEq, Repr

/-- Positions of the switch matrix (R47 to R49). -/
inductive Switch | pin | tieLo | tieHi | tieHiSwap | tieLoSwap | benchmark
  deriving DecidableEq, Repr

/-- The host's settings of a channel (R29, R67, R148). `lineMode = none` is AUTO. -/
structure ChanCfg where
  term : Term
  highRange : Bool
  modeA : CompMode
  modeB : CompMode
  bFunc : BFunc
  latchFrame : Bool
  lineMode : Option LineMode
  edgeSel : EdgeSel
  decim : Nat
  thrA : Nat
  hysA : Nat
  thrB : Nat
  hysB : Nat
  deriving DecidableEq, Repr

/-- One comparator as it stands: the settings in force (firmware overrides the host's during searches
and checks), its output, its settling and its latches (R36 to R46). -/
structure Comparator where
  mode : CompMode
  thr : Nat
  hys : Nat
  out : Bool
  /-- the output as last delivered to the Event Relay (R37, R40, R45) -/
  sent : Bool
  settled : Bool
  /-- end of the settle time, coarse cycles (R45, R46) -/
  settleEnd : Nat
  rose : Bool
  fell : Bool
  lastRose : Bool
  lastFell : Bool
  /-- start of the part over which firmware judges the comparator, and what it saw there (R50, R173) -/
  judgeFrom : Nat
  sawHigh : Bool
  sawLow : Bool
  judgedEdges : Nat
  deriving DecidableEq, Repr

/-- A stamp (R74), on the extended scale in gr. -/
structure Stamp where
  time : Nat
  ch : Nat
  rising : Bool
  mode : LineMode
  deriving DecidableEq, Repr

/-- What a runt decision has made of an entry (R41). -/
inductive RuntMark
  /-- no runt qualification applies -/
  | none
  /-- held until comparator B crosses, A crosses back, or the frame ends -/
  | held
  | full
  | runt
  deriving DecidableEq, Repr

/-- An edge between the sorter and its stamp: in the lines, in the FIFO or assembled (R62, R70). -/
structure Edge where
  /-- frame in which the sorter dealt it -/
  frame : Nat
  /-- time of the crossing, in gr -/
  at_ : Nat
  /-- D_c of its comparator, range and sense, and B_FUNC, as they were in its frame (R18, R41, R108) -/
  dc : Int
  bFunc : BFunc
  rising : Bool
  mode : LineMode
  lines : List Nat
  codes : List LineCode
  runt : RuntMark
  /-- the comparator that made it is B of the partner channel (R42) -/
  partner : Bool
  /-- switch position at the edge; off the pin its stamp serves only checks and deskew (R47) -/
  atPin : Bool
  credits : Nat
  /-- the last frame to which its stamp can belong, where a move under R127 relabels the time after it -/
  cap : Option Nat
  deriving DecidableEq, Repr

/-- The pulse that runt qualification is judging (R41). -/
structure Pulse where
  /-- the leading crossing was seen -/
  seen : Bool
  crossedB : Bool
  /-- treated as a full pulse at a tick -/
  forcedFull : Bool
  /-- edge selection and the prescaler kept its leading edge -/
  kept : Bool
  deriving DecidableEq, Repr

/-- One channel's record of one frame (R179 to R182): its stamps, counts and conditions. -/
structure FrameRec where
  frame : Nat
  stamps : List Stamp
  mode : LineMode
  lostFifo : Nat
  lostCheck : Nat
  runtRej : Nat
  runtKept : Nat
  disagree : Nat
  lineStar : List Nat
  quadEdges : Nat
  stampCheck : Nat
  sorted : Nat
  unsettledA : Bool
  unsettledB : Bool
  /-- settled at some moment of the frame -/
  settledA : Bool
  settledB : Bool
  switched : Bool
  /-- the FE bank was in reset or powered down at some moment (R380) -/
  bankDown : Bool
  saturated : Bool
  calSlew : Bool
  /-- stamps made off the pin position: Benchmark edges of checks and deskew -/
  offPin : List Stamp
  /-- the settings and the codes in force in the frame -/
  cfg : ChanCfg
  thrA : Nat
  hysA : Nat
  thrB : Nat
  /-- comparator A and the bank sensor at the closing tick -/
  settledAtEnd : Bool
  temp : Int
  ncoStep : Nat
  closed : Bool
  digest : List Word
  /-- the jitter block's 40 summary words, and N, UNDER, OVER and the bins of its histogram (R182) -/
  jitter : List Word
  hist : List Nat
  deriving DecidableEq, Repr

/-! ## Calibration -/

/-- A correction table (R84): the linear table of R86, or 1,536 entries. -/
inductive Table
  | linear
  | entries (l : List Int)
  deriving DecidableEq, Repr

/-- A candidate with its verdict, waiting for its tick (R92, R93, R97). -/
structure Candidate where
  /-- the frame measured, and the tick at which it is treated -/
  frame : Nat
  tick : Nat
  table : Table
  /-- taps per period as a fraction -/
  p : Nat × Nat
  inl : Nat
  temp : Int
  /-- 0 shadow turn, 1 lead-in, 2 CALIBRATE, 3 start-up (R95) -/
  origin : Nat
  /-- the first test that failed, 0 where every test passed (R93) -/
  reason : Nat
  /-- passed tests 1, 2, 4 and 5 but not 3 (R101) -/
  stepOnly : Bool
  /-- the line was due at the tick that ended the measured frame (R96) -/
  due : Bool
  deriving DecidableEq, Repr

/-- A running slew (R99). -/
structure Slew where
  cur : Table
  target : Table
  j : Nat
  total : Nat
  deriving DecidableEq, Repr

/-- One delay line (R84 to R101). -/
structure Line where
  table : Table
  /-- the table of the frame before, where the last tick changed it: edges dealt before the tick use it -/
  before : Option Table
  /-- taps per period of the in-force table, or of the target of its slew, as a fraction -/
  p : Nat × Nat
  tRef : Int
  slew : Option Slew
  cand : Option Candidate
  hist : List (Nat × Nat)
  histCount : Nat
  complete : Option (List (Nat × Nat))
  obs : List Observation
  /-- REASON of the line's previous log record; 0 after an application (R94) -/
  lastReason : Option Nat
  rejections : Nat
  stale : Bool
  onLinear : Bool
  /-- under CALIBRATE: its histogram is complete; its candidate was rejected -/
  runDone : Bool
  rejectedInRun : Bool
  /-- frames, lead edges and disagreements of the running 256-frame block, and its mark (R417) -/
  marked : Bool
  deriving DecidableEq, Repr

/-- The running block of R417 for one channel. -/
structure HealthBlock where
  /-- frames still to close that came before the block -/
  skip : Nat
  /-- per line: frames counted, QUAD edges, edges for which it was l* -/
  frames : List Nat
  edges : List Nat
  stars : List Nat
  deriving DecidableEq, Repr

/-- The deskew constants of one comparator in one range, signed 1/16 gr (R108). -/
structure Deskew where
  pkg : Int
  intRise : Int
  intFall : Int
  fix : Int
  deriving DecidableEq, Repr

/-- One of the 96 channels. -/
structure Channel where
  cfg : ChanCfg
  a : Comparator
  b : Comparator
  switch : Switch
  mode : LineMode
  firstChoice : LineMode
  /-- position in the dealing order, restarted by each frame (R62) -/
  deal : Nat
  /-- selected crossings counted by the prescaler (R149) -/
  prescale : Nat
  pulse : Option Pulse
  inLines : List Edge
  fifo : List Edge
  /-- coarse edge through which credits have been spent (R70) -/
  fifoAt : Nat
  assembled : List Edge
  /-- consecutive cycles of bad parity and mismatch at the assembler (R79) -/
  badCycle : Option Nat
  /-- the assembler's local coarse count, and the coarse cycle of the tick scale in which it stood so (R79) -/
  localCount : Nat
  localAt : Nat
  parked : Bool
  lostTotal : Nat
  lastLoss : Nat
  stampCheckTotal : Nat
  disagreeTotal : Nat
  frames : List FrameRec
  /-- the last rising and the last falling stamp of the records that are gone: frame and time -/
  lastRise : Option (Nat × Int)
  lastFall : Option (Nat × Int)
  /-- stamps made already of the frame that the next tick opens (R13) -/
  early : Option FrameRec
  lines : List Line
  health : HealthBlock
  /-- comparator A LOW, A HIGH, B LOW, B HIGH -/
  deskew : List Deskew
  /-- c_top and c_bot of the last AUTO_LEVEL (R175) -/
  levels : Option (Nat × Nat)
  /-- LEVEL_PCT of the last AUTO_LEVEL -/
  levelPct : Nat
  /-- probe position of level tracking: frame of the running cycle -/
  probe : Nat
  /-- firmware probes with comparator B, whose settings wait (R173, R175) -/
  heldB : Bool
  deriving DecidableEq, Repr

/-- A calibration log record (R95), kept as its 3 words. -/
abbrev CalRecord := List Word

/-- CALIBRATE in progress (R106). -/
structure CalRun where
  slot : Nat
  banks : BitVec 12
  deskewInt : Bool
  /-- the first tick T -/
  first : Nat
  limit : Nat
  /-- f_c once it is known -/
  fc : Option Nat
  /-- the tick at which the first deskew frame opens, once the tables are applied -/
  deskewAt : Option Nat
  /-- a start-up calibration, which belongs to no slot (R86) -/
  startUp : Bool
  cancelled : Bool
  deriving DecidableEq, Repr

/-- DESKEW in progress (R110, R111). -/
structure DeskewRun where
  slot : Nat
  /-- channels of an INTERNAL run; empty for FIXTURE -/
  channels : List Nat
  /-- FIXTURE: channel and declared delay -/
  fixture : List (Nat × Nat)
  /-- SET: channel, comparator B, HIGH range and D_fix -/
  set : List (Nat × Bool × Bool × Int)
  first : Nat
  cancelled : Bool
  /-- part of CALIBRATE -/
  ofCalibrate : Bool
  /-- channels and statuses, once the constants have been applied among the effects of its last tick (R297) -/
  answer : Option (List (Nat × Nat))
  deriving DecidableEq, Repr

/-- Calibration state that belongs to no line. -/
structure Calibration where
  log : List CalRecord
  logCount : Nat
  tempStep : Nat
  slewGr : Nat
  frozen : Bool
  pendingFreeze : Option (Nat × Bool)
  run : Option CalRun
  deskew : Option DeskewRun
  /-- CAL_OUT is driven (R111) -/
  calOut : Bool
  /-- the start-up calibration has run -/
  startDone : Bool
  /-- the last frames of the last full calibration, from the first of them to the last, and its banks (R87, R106) -/
  measured : Option (Nat × Nat × BitVec 12)
  deriving DecidableEq, Repr

/-! ## Time base -/

/-- A spread setting (R133): MODE, DEPTH in 0.01 % and RATE in 0.1 kHz. -/
structure Spread where
  mode : Nat
  depth : Nat
  rate : Nat
  deriving DecidableEq, Repr

/-- One ADPLL (R113 to R117, R133 to R136). -/
structure Pll where
  /-- coarse band, 0 to 31, and 12-bit fine code of the DCO -/
  band : Nat
  fine : Nat
  /-- DCO cycles that the lock counter had at the end of the last window -/
  count : Nat
  locked : Bool
  reacquiring : Bool
  /-- the DCO codes are held, and the loop is open (R117) -/
  openLoop : Bool
  spread : Spread
  /-- the setting before the last change, and the coarse count at which the depth begins to ramp (R134) -/
  spreadBefore : Spread
  rampFrom : Nat
  deriving DecidableEq, Repr

/-- The host's time-base settings (R120). -/
structure TbCfg where
  refSrc : Nat
  ref100MHz : Bool
  outerBw : Nat
  innerBw : Nat
  jump : Nat
  slewRate : Nat
  deriving DecidableEq, Repr

/-- A running SLEW walk (R126): its first tick, J, Δ, what REF_PHASE ends at, which an ALIGN_APPLY moves (R141),
J × T_frame in gr, and whether a return began it. The DCO carries the constant offset y = Δ / (J × T_frame). -/
structure Walk where
  from_ : Nat
  total : Nat
  delta : Int
  rest : Int
  length : Nat
  atReturn : Bool
  deriving DecidableEq, Repr

/-- Settings of one CLKOUT output (R129). -/
structure Clkout where
  enable : Bool
  idleLow : Bool
  source : Nat
  n : Nat
  coarse : Nat
  fine : Nat
  keepAlive : Bool
  deriving DecidableEq, Repr

/-- The live side of one CLKOUT output (R130 to R132, R136), its times in gr. -/
structure ClkLive where
  cfg : Clkout
  /-- T_commit; the move of a scale may take it below 0 -/
  anchor : Int
  committed : Bool
  /-- a commit has enabled the output since reset: it is driven (R399) -/
  driven : Bool
  /-- the bearing steps still to run at time `moveAt` -/
  moveLeft : Int
  moveAt : Int
  /-- r + T_old, before which no new edge comes -/
  notBefore : Int
  /-- the last high phase of the old grid: r and its end -/
  oldHigh : Option (Int × Int)
  /-- an output turned off is low until then -/
  lowUntil : Int
  /-- a loss of MERIDIAN_LOCK holds the output low until a commit -/
  stopped : Bool
  deriving DecidableEq, Repr

/-- ALIGN_MEASURE in progress (R140): its slot, frame of acceptance, probes wanted, sent and returned, and Σ R. -/
structure MeasureRun where
  slot : Nat
  from_ : Nat
  wanted : Nat
  sent : Nat
  returned : Nat
  sum : Int
  /-- launch of the first probe after the last valid marker, in gr, and the number of those probes -/
  launch : Nat
  probes : Nat
  /-- probes after that marker whose echo has come or can come no more -/
  echoed : Nat
  deriving DecidableEq, Repr

/-- The move that ALIGN_APPLY makes (R141): its tick, Δ, and the marker's frame number and extended count. -/
structure MoveDue where
  tick : Nat
  delta : Int
  upFrame : Nat
  upCount : Nat
  deriving DecidableEq, Repr

/-- Triangulation (R137 to R143). -/
structure Align where
  armed : Bool
  role : Bool
  hop : Nat
  echo : Bool
  markersOn : Bool
  pendingArm : Option (Nat × Bool × Nat × Bool)
  linkDelay : Int
  measured : Bool
  residual : Int
  measure : Option MeasureRun
  measureCancelled : Bool
  /-- ALIGN_APPLY: slot and frame of acceptance -/
  apply : Option (Nat × Nat)
  move : Option MoveDue
  /-- a marker was taken for this tick -/
  markerSeen : Bool
  misaligned : Bool
  validRun : Nat
  /-- the last echo launched for a probe, time in gr (R140) -/
  lastEcho : Nat
  deriving DecidableEq, Repr

/-- A change of k that waits (R176): its tick, the new k, and whether it is a change by SET_GRATICULE, which advances
the generation; the settings bank advances it with the rest of its settings, and not at start-up. -/
structure NewK where
  tick : Nat
  k : Nat
  counts : Bool
  deriving DecidableEq, Repr

/-- The time base and the Graticule (05, 07 R176 to R178). -/
structure TimeBase where
  coarse : BitVec 48
  coarseCheck : BitVec 48
  epoch : BitVec 16
  running : Bool
  /-- frame in progress, counted without the wrap of R177; GS_FRAME shows it modulo 2^40 -/
  frame : Nat
  /-- the number of the frame before it, which a load of the frame counter leaves (R87, R141) -/
  before : Nat
  k : Nat
  pendingK : Option NewK
  anchorFrame : Nat
  /-- anchor count on the extended scale -/
  anchorCount : Nat
  anchorK : Nat
  /-- extended count of the tick that opened the frame in progress -/
  tickCount : Nat
  meridian : Pll
  engine : Pll
  store : Pll
  chart : Pll
  /-- ADPLL of the last loss under R117, as GET_TIMEBASE codes it -/
  lastLoss : Nat
  warm : Bool
  warmNext : Bool
  ocxoWarm : Bool
  ocxoFell : Bool
  /-- second of the coarse count since which the pin has been high -/
  warmSince : Nat
  /-- one-second means of R118, newest first, and the last multiple of 2,500,000,000 evaluated -/
  means : List Int
  evaluated : Nat
  cfg : TbCfg
  steer : Int
  /-- the integral of the outer loop, in 2^-96 (R122) -/
  integral : Int
  /-- s at the ends of the last 10,000 windows of 1 ms, newest first (R118, R124) -/
  steerPast : List Int
  steered : Bool
  steerLimit : Bool
  refPresent : Bool
  refLocked : Bool
  holdover : Bool
  goodWindows : Nat
  windowEdges : List Nat
  /-- the last rising edge of REF_IN -/
  lastEdge : Option Nat
  windowBad : Bool
  lockedWindows : Nat
  /-- phase errors of the second before a return (R125) -/
  returnErrors : List Int
  refPhase : Int
  walk : Option Walk
  walking : Bool
  returnDue : Option Int
  syncAligned : Bool
  /-- the lines of the stamp paths of REF_IN, SYNC_IN and SYNC_OUT (R121, R138) -/
  paths : List (List Line)
  /-- by how much moves of the scale have delayed the DCO edges, the last of these moves and its start, in gr (R127) -/
  dcoShift : Int
  dcoMove : Int
  dcoFrom : Nat
  clkStaged : List Clkout
  clkLive : List ClkLive
  /-- pending commits: tick, output, settings -/
  commits : List (Nat × Nat × Clkout)
  /-- pending bearing steps: tick, output, steps -/
  bearings : List (Nat × Nat × Int)
  align : Align
  deriving DecidableEq, Repr

/-! ## Survey items -/

/-- A survey item as DEFINE_ITEM gives it (R145, R200). -/
structure Item where
  kind : Nat
  gateMode : Nat
  armMode : Nat
  continuous : Bool
  noPartial : Bool
  autoLevel : Bool
  gateTrig : Nat
  armTrig : Nat
  ch : List Nat
  sense : List Nat
  gateLen : Nat
  armFrame : Nat
  pairing : Nat
  coinc : Nat
  neg : Bool
  track : Bool
  histPeriod : Bool
  binExp : Nat
  nper : Nat
  sscM : Nat
  maxSpan : Nat
  pNom : Nat
  centre : Int
  srcItem : Nat
  srcFiltered : Bool
  fftN : Nat
  window : Nat
  overlap : Bool
  maxHold : Bool
  tauExp0 : Nat
  tauCount : Nat
  loop : Bool
  outTracked : Bool
  saturateOk : Bool
  binLo : Nat
  binHi : Nat
  kp : Int
  ki : Int
  coefSet : Nat
  inMax : Nat
  lineK : Nat
  berExp : Nat
  skip : Nat
  mask : Nat
  route : Nat
  trigCount : Nat
  deriving DecidableEq, Repr

/-- The filter and loop of a FILTERED item (R204, R206). -/
structure Filter where
  delay : List Int
  phi : Int
  v : Int
  /-- the loop has taken its first present sample -/
  primed : Bool
  /-- output samples since the last zeroing tick -/
  seen : Nat
  /-- an accumulator clamped in the work of the last frame (R197) -/
  clamped : Bool
  deriving DecidableEq, Repr

/-- A sample of a stream and the frame in which it was completed; `none` is an absent one (R183). `counts` is
false for the first SKIP outputs of a filter (R206). -/
structure Sample where
  frame : Nat
  value : Option Int
  counts : Bool
  /-- clamped on the way -/
  saturated : Bool
  deriving DecidableEq, Repr

/-- The grid points of one frame (R168): the index and place of the first in 2^-24 gr, the step and their number. -/
structure GridSeg where
  index : Nat
  pos : Int
  step : Nat
  points : Nat
  deriving DecidableEq, Repr

/-- A spectrum record waiting for the frame to which R211 attributes it. -/
structure SpecRecord where
  frame : Nat
  discarded : Bool
  /-- bins 0 to N/2 in 2^-200 gr² -/
  bins : List Nat
  /-- some sample of it was clamped on the way -/
  sat : Bool
  deriving DecidableEq, Repr

/-- A record that a MASKTEST item tested (R216): its frame, the segments that violated, and the largest ratio of
measured value to limit as numerator, denominator and segment. -/
structure MaskResult where
  frame : Nat
  violated : List Nat
  worstNum : Nat
  worstDen : Nat
  worstSeg : Nat
  sat : Bool
  deriving DecidableEq, Repr

/-- Where an item's gate stands after the last frame worked (R152 to R155). -/
inductive GatePhase
  /-- no run, or defined during HOLD -/
  | idle
  /-- waits for a rise of ARM_TRIG -/
  | arm
  /-- waits for a rise of GATE_TRIG -/
  | wait
  /-- a gate from frame `start`; `endFixed` where a TRIG gate's fall is known -/
  | opened (start : Nat) (endFixed : Option Nat)
  /-- a ONCE item that has published -/
  | spent
  deriving DecidableEq, Repr

/-- An item and where it stands: its gate, its streams and its last readings. -/
structure ItemRun where
  num : Nat
  item : Item
  /-- the first frame that this definition governs, and the first that it no longer governs -/
  from_ : Nat
  until_ : Option Nat
  phase : GatePhase
  /-- selected edges of role A since the gate opened -/
  count : Nat
  grid : List GridSeg
  samples : List Sample
  /-- samples completed so far in the gate -/
  taken : Nat
  filter : Filter
  records : List SpecRecord
  recordsCut : Nat
  violRun : Nat
  tests : List MaskResult
  /-- frames for which MASKTEST asserted its trigger -/
  asserted : List Nat
  /-- P_f of the frame last worked -/
  step : Option Nat
  deriving DecidableEq, Repr

/-- A coefficient set (R203) or the staging of one. -/
structure CoefSet where
  taps : List Int
  total : Nat
  shift : Nat
  deriving DecidableEq, Repr

/-- A mask segment (R215). -/
structure Segment where
  fLo : Nat
  fHi : Nat
  band : Bool
  limit : Word
  deriving DecidableEq, Repr

/-- What a frame of the device was (R46, R119, R124, R186). -/
structure FrameInfo where
  frame : Nat
  k : Nat
  tick : Nat
  length : Nat
  gated : Bool
  /-- the first of the gated frames that follow one another without a break up to this one -/
  stretch : Nat
  /-- the first gated frame of the run that the frame is of or follows -/
  runFrom : Nat
  leadIn : Bool
  inRun : Bool
  cold : Bool
  /-- MERIDIAN_LOCK was 0 at some moment of it (R93) -/
  unlocked : Bool
  holdover : Bool
  refStep : Bool
  adapted : Bool
  moved : Bool
  /-- groups whose work for the frame was not done, and whether every group's was not -/
  lateGroups : List Nat
  lateAll : Bool
  lateness : Nat
  /-- STAMP was in reset or powered down at some moment of it (R380) -/
  noStamps : Bool
  gen : BitVec 16
  epoch : Nat
  /-- channels whose EDGE_SEL or DECIM changed at the tick that opened it (R149) -/
  selChanged : List Nat
  /-- TRIG edges assigned to the frame in order: line, rising -/
  trig : List (Nat × Bool)
  /-- routes that FORCE_TRIGGER named for the frame -/
  forced : List Nat
  /-- batch already published or withheld -/
  unpublished : Bool
  deriving DecidableEq, Repr

/-- A trigger route (R218, R219). -/
structure Route where
  srcTrig : BitVec 8
  srcForce : Bool
  out : BitVec 8
  atlas : Bool
  holdoff : Nat
  firings : Nat
  suppressed : Nat
  last : Option Nat
  deriving DecidableEq, Repr

/-- A TRIG line (R218, R220). -/
structure TrigLine where
  dir : Nat
  activeLow : Bool
  outDly : Nat
  pulse : Nat
  /-- level at the ball -/
  level : Bool
  /-- firings whose active time has not come: coarse count of it -/
  due : List Nat
  /-- end of the running pulse -/
  ends : Option Nat
  deriving DecidableEq, Repr

/-- The survey: items, sets, masks, frames and the run's own figures. -/
structure Survey where
  items : List ItemRun
  /-- READ_READINGS' store: item, last published final and running reading since START (R188) -/
  store : List (Nat × List Word × List Word)
  /-- per set, its versions with their first frames, newest first -/
  coefSets : List (List (Nat × CoefSet))
  coefStaging : List (Option CoefSet)
  /-- per mask, its versions with their first frames, newest first -/
  masks : List (List (Nat × List Segment))
  maskStaging : List (Option (Nat × List Segment))
  frames : List FrameInfo
  routes : List Route
  lines : List TrigLine
  runLog : List (List Word)
  runLogCount : Nat
  /-- first gated frame and lead-in frame of the run, and whether a run is open -/
  leadIn : Option Nat
  inRun : Bool
  /-- the policy in force at START, which holds until the run ends (R22) -/
  runStrict : Bool
  /-- P of each channel's NCO in the last frame worked (R168): channel and P -/
  steps : List (Nat × Nat)
  /-- k at START, from which firmware sets the constants of R68 -/
  runK : Nat
  /-- frames whose batch is still to be published after the run ended -/
  overruns : Nat
  lateness : Nat
  /-- group placement of the run: group of the work of channel residue r -/
  placement : List (Option Nat)
  /-- frame, group and engine wherever a sticky saturation bit was found set with the frame's work (R197) -/
  sticky : List (Nat × Nat × Nat)
  /-- sense of set B per channel, of the run (R181) -/
  senseB : List Nat
  /-- sample histories of the run: first page and pages (R201, R223) -/
  histPages : List (Nat × Nat)
  deriving DecidableEq, Repr

/-! ## Capture store, traverses, maps, chart -/

/-- A freeze of a traverse (R236, R237): none; pending for a trigger frame with PRE and POST, ending with the
frame `last`, saved to the Atlas or not; or frozen. -/
inductive Freeze
  | free
  | pending (trig pre post last : Nat) (save : Bool)
  | frozen
  deriving DecidableEq, Repr

/-- What a command to a traverse does at its tick. -/
inductive TvAction
  | arm (route pre post : Nat)
  /-- NOW for trigger frame m -/
  | now (m pre post : Nat)
  | release
  | disarm
  | resize (pages c0 : Nat)
  | delete
  deriving DecidableEq, Repr

/-- A RESIZE_TRAVERSE that waits for the commit of the frame before `frame`, that of its acceptance (R238). -/
structure ResizeWait where
  slot : Nat
  frame : Nat
  pages : Nat
  flush : Bool
  deriving DecidableEq, Repr

/-- One traverse (R225 to R240). -/
structure Traverse where
  num : Nat
  ch : Nat
  kind : Nat
  base : Nat
  pages : Nat
  halt : Bool
  rate : Nat
  wc : Nat
  rc : Nat
  c0 : Nat
  freeze : Freeze
  /-- route, PRE and POST of the arming -/
  arm : Option (Nat × Nat × Nat)
  trigFrame : Nat
  firstFrame : Nat
  lastFrame : Nat
  /-- the last frame whose channel frame committed, 0 before the first -/
  committed : Nat
  skipped : Nat
  cut : Nat
  flushed : Nat
  /-- the tick at which the definition applies -/
  from_ : Nat
  /-- the first frame that is neither committed nor skipped -/
  next : Nat
  /-- TV_RC at the ticks of frames not yet committed, newest first (R235) -/
  rcAt : List (Nat × Nat)
  /-- committed frames of the intact span, newest first: frame, counter value of its first word, words -/
  held : List (Nat × Nat × Nat)
  /-- accepted actions with their ticks -/
  waits : List (Nat × TvAction)
  resizes : List ResizeWait
  deriving DecidableEq, Repr

/-- A contour map as defined (R242). -/
structure MapCfg where
  kind : Nat
  chA : Nat
  chB : Nat
  senseA : Nat
  senseB : Nat
  specItem : Nat
  xOrg : Int
  xe : Nat
  yOrg : Int
  ye : Nat
  fpc : Nat
  maxSpan : Nat
  decayD : Nat
  decayFr : Nat
  code0 : Nat
  codeStep : Int
  rows : Nat
  dwell : Nat
  scale : Int
  binGroup : Nat
  rate : Nat
  deriving DecidableEq, Repr

/-- A contour map (R241 to R250). -/
structure CMap where
  num : Nat
  cfg : MapCfg
  base : Nat
  from_ : Nat
  lastFrame : Nat
  events : Nat
  skipped : Nat
  outside : Nat
  cleared : Nat
  /-- records since the map was last cleared, j of R248 -/
  row : Nat
  /-- the tick of the last decay applied -/
  lastStep : Nat
  /-- starts whose nearest stop is not known yet: time, and the interval to the nearest stop so far with whether that
  stop lies in the gate (PHASE_DENSITY) -/
  waiting : List (Int × Option (Int × Bool))
  deriving DecidableEq, Repr

/-- A render (R253). -/
structure Render where
  map : Nat
  buffer : Nat
  /-- the second buffer -/
  alt : Option Nat
  zoom : Int
  autoCommit : Bool
  flip : Bool
  log : Bool
  shift : Nat
  lOff : Int
  sx : Nat
  sy : Nat
  sw : Nat
  sh : Nat
  dx : Nat
  dy : Nat
  period : Nat
  /-- the next tick at which it starts -/
  due : Nat
  /-- it replaces the render with the same target at its first tick -/
  started : Bool
  useAlt : Bool
  /-- the buffer being written and the pixels read: x, y, colour -/
  busy : Option (Nat × List (Nat × Nat × Nat))
  deriving DecidableEq, Repr

/-- A chart buffer (R254). -/
structure Buffer where
  num : Nat
  width : Nat
  height : Nat
  format : Nat
  base : Nat
  pages : Nat
  stride : Nat
  deriving DecidableEq, Repr

/-- An address, stride and format as staged, pending or live (R259, R260). -/
structure FbAddr where
  addr : Nat
  stride : Nat
  format : Nat
  deriving DecidableEq, Repr

/-- A CRC rectangle (R264). -/
structure CrcRect where
  x0 : Nat
  y0 : Nat
  w : Nat
  h : Nat
  deriving DecidableEq, Repr

/-- A mode change in progress (R263). -/
structure ModeChange where
  slot : Option Nat
  mode : Nat
  rate : Nat
  lanes : Nat
  /-- 0 waits for the frame end, 1 relocks or trains, 2 waits for the first black frame, 3 and 4 black frames -/
  step : Nat
  /-- the Chart PLL is still to lock, the link still to train -/
  needLock : Bool
  needTrain : Bool
  deriving DecidableEq, Repr

/-- The Chart port (R256 to R266). -/
structure Chart where
  legend : List (BitVec 24)
  renders : List Render
  buffers : List Buffer
  scanEn : Bool
  scanNow : Bool
  crcEn : Bool
  check : BitVec 8
  staged : FbAddr
  slot : Option FbAddr
  /-- the pending commit was written in the last active line: it passes over the next latch point (R261) -/
  slotLate : Bool
  live : FbAddr
  refused : Bool
  commitFrame : Nat
  /-- the line counter as last known (log 82) -/
  line : Nat
  frame : Nat
  bg : BitVec 24
  underruns : Nat
  lastUnderrun : Nat
  /-- underruns of the frame being scanned: line and first missing pixel -/
  missing : List (Nat × Nat)
  crcValid : BitVec 8
  crcMismatch : BitVec 8
  crcFrame : Nat
  crcCount : Nat
  crcValue : List (BitVec 32)
  crcExpect : List (BitVec 32)
  rects : List (Option CrcRect)
  pendingRects : List (Nat × Option CrcRect)
  mode : Nat
  rate : Nat
  lanes : Nat
  /-- MAX_LANES and MAX_RATE of the last SET_CHART_MODE -/
  maxLanes : Nat
  maxRate : Nat
  linkUp : Bool
  hpd : Bool
  sink : Sink
  change : Option ModeChange
  /-- frames for which CRC checking is still suspended -/
  suspend : Nat
  /-- video is on the link -/
  scanning : Bool
  /-- video resumes at the next frame start -/
  resumeDue : Bool
  shed : Bool
  skippedRenders : Nat
  deriving DecidableEq, Repr

/-- The capture store (R223) and its users. `mem` lists the words that are not zero, addresses rising. -/
structure Capture where
  mem : List (Nat × Word)
  traverses : List Traverse
  maps : List CMap
  chart : Chart
  /-- the Atlas read window: base page, pages (R280) -/
  rbuf : Option (Nat × Nat)
  poisoned : List Nat
  deriving DecidableEq, Repr

/-! ## Atlas -/

/-- ATLAS_HEALTH states. -/
inductive AtlasState | closed | opening | open | readOnly | full
  deriving DecidableEq, Repr

/-- A sheet (R272): as staged or in the journal. `place` is the stream position of its header. -/
structure Sheet where
  type : Nat
  source : Nat
  truncated : Bool
  seq : Nat
  frame : Nat
  gen : BitVec 16
  epoch : Nat
  body : List Word
  /-- body lengths at which a copy may end early: the ends of whole channel frames (R276) -/
  cuts : List Nat
  place : Nat
  /-- padding follows it to the end of its page (R279) -/
  pad : Bool
  damaged : Bool
  deriving DecidableEq, Repr

/-- ATLAS_APPEND_POLICY (R274). -/
structure AtlasPolicy where
  rdMode : Nat
  itemLo : Nat
  itemHi : Nat
  rdFrames : Nat
  saveFrozen : Bool
  mapSave : BitVec 16
  stopWhenFull : Bool
  deriving DecidableEq, Repr

/-- A running ATLAS_READ (R280): the sheet, the words to copy, how many are copied, and the first word of the
first uncorrectable codeword. -/
structure AtlasRead where
  slot : Nat
  seq : Nat
  offset : Nat
  count : Nat
  copied : Nat
  bad : Option Nat
  deriving DecidableEq, Repr

/-- ATLAS_OPEN in progress (R288): the slot, none where firmware opens the journal after boot, the copies of checkpoints
that are still to be read, newest first (channel, stream position), and once one checks the stream position of the codeword
to be read next. -/
structure AtlasOpening where
  slot : Option Nat
  copies : List (Nat × Nat)
  at_ : Option Nat
  deriving DecidableEq, Repr

/-- ATLAS_FORMAT in progress (R282): the slot and the blocks whose erase is still to complete. -/
structure AtlasFormat where
  slot : Nat
  left : List Nat
  deriving DecidableEq, Repr

/-- One block of the flash. -/
structure Block where
  target : Nat
  plane : Nat
  factory : Bool
  grown : Bool
  /-- it carries the metadata area of its target (R284) -/
  records : Bool
  /-- a fault has struck it: its data is being copied out, and then it is a grown bad block (R283) -/
  retiring : Bool
  /-- its data is no longer needed: it waits for its erase -/
  erasing : Bool
  erases : Nat
  /-- pages programmed since its last erase, and the stream pages that they hold, in order -/
  used : Nat
  pages : List Nat
  /-- the hour of its last program, and that of its last full read -/
  writtenAt : Nat
  readAt : Nat
  deriving DecidableEq, Repr

/-- A page program in progress: the stream page, the block, and whether it copies data that another block holds. -/
structure PageProgram where
  page : Nat
  block : Nat
  copy : Bool
  deriving DecidableEq, Repr

/-- Why the data of a block moves: it needs a refresh (R285), levels wear (R284), or leaves a block that is retired
(R283). -/
inductive MoveWhy | refresh | level | retire
  deriving DecidableEq, Repr

/-- A block's data on its way to another block: the pages that are still to be copied. -/
structure BlockMove where
  src : Nat
  dst : Option Nat
  left : List Nat
  why : MoveWhy
  deriving DecidableEq, Repr

/-- A full retention pass in progress (R285): the slot of ATLAS_SCRUB, none for the pass that an open begins, whether it is to
be cancelled, and the blocks that it has still to read, of so many. -/
structure ScrubRun where
  slot : Option Nat
  cancelled : Bool
  left : List Nat
  total : Nat
  deriving DecidableEq, Repr

/-- The Atlas journal (11). Positions count the payload words of the stream since format. -/
structure Atlas where
  st : AtlasState
  policy : AtlasPolicy
  pendingPolicy : Option (Nat × AtlasPolicy)
  targets : List Target
  /-- the flash holds a format that the Naset wrote -/
  formatted : Bool
  formatId : BitVec 32
  seqNext : Nat
  lastFenced : Nat
  /-- the journal's sheets, oldest first, programmed or not -/
  sheets : List Sheet
  /-- positions: end of what is laid out, end of what is programmed and checked without a gap -/
  laid : Nat
  programmed : Nat
  /-- index checkpoints, newest first: the channel of the copy and its stream position; each is written twice (R284) -/
  copies : List (Nat × Nat)
  /-- the blocks of all targets, plane by plane -/
  blocks : List Block
  /-- the stream page whose program starts next, the pages programmed beyond `programmed`, those to be programmed again, and
  the places that programs have taken in turn (R271) -/
  nextPage : Nat
  ahead : List Nat
  rewrites : List Nat
  turn : Nat
  /-- programs in progress, oldest first -/
  inflight : List PageProgram
  moves : List BlockMove
  /-- codewords that no read has decoded -/
  lost : List Nat
  /-- copies of codewords, as block and codeword, that recovery found not to check beside another copy (R288) -/
  badCopies : List (Nat × Nat)
  /-- channels whose targets run in NV-DDR3 (R267) -/
  ddr : List Nat
  /-- ATLAS_FORMAT or ATLAS_OPEN has initialised the targets since the reset (R399) -/
  initialised : Bool
  /-- firmware's clock of hours, by which blocks age (R285) -/
  hour : Nat
  /-- the READINGS sheet being collected: frame and words of each batch group, oldest first -/
  collecting : List (Nat × List Word)
  /-- dropped since the last GAP: count, first and last frame, type mask -/
  gap : Option (Nat × Nat × Nat × Nat)
  dropped : Nat
  gaps : Nat
  truncatedSheets : Nat
  /-- a sheet was dropped for lack of space under STOP since the previous fence -/
  dropSinceFence : Bool
  /-- fences in flight: slot and S -/
  fences : List (Nat × Nat)
  /-- ATLAS_READ commands in progress, oldest first -/
  reads : List AtlasRead
  opening : Option AtlasOpening
  formatting : Option AtlasFormat
  scrubs : List ScrubRun
  usableMiB : Nat
  /-- per channel: corrected, retried, soft-decoded, uncorrectable -/
  codewords : List (List Nat)
  /-- words of sheets appended, and pages programmed, since format -/
  appended : Nat
  pagesDone : Nat
  refreshed : Nat
  discarded : Nat
  cleanClose : Bool
  /-- appends have stopped for lack of space, until ATLAS_FORMAT (R281) -/
  filled : Bool
  /-- the flash has been without power since the last open (R285) -/
  unpowered : Bool
  /-- programs are held because PWR_FAIL_N is low -/
  powerHeld : Bool
  rbufPages : Nat
  deriving DecidableEq, Repr

/-! ## Event Relay -/

/-- ER_SRC_CFG (R337). -/
structure SrcCfg where
  prio : Nat
  sense : BitVec 3
  targets : BitVec 5
  wake : Bool
  hostOwned : Bool
  lowest : Bool
  deriving DecidableEq, Repr

/-- An entry of H's stack (R346). -/
structure StackEntry where
  source : Nat
  prio : Nat
  levelAtClaim : Bool
  deriving DecidableEq, Repr

/-- One source: its configuration, input, pending and mask bits and lost counter. -/
structure Source where
  cfg : SrcCfg
  level : Bool
  pend : Bool
  /-- it became pending through its level -/
  byLevel : Bool
  masked : Bool
  lost : Nat
  /-- the target that the relay chose under LOWEST at its last decision (R343) -/
  chosen : Option Nat
  deriving DecidableEq, Repr

/-- The main part of the Event Relay (14). -/
structure Relay where
  sources : List Source
  shadow : List Lane
  /-- top first -/
  stack : List StackEntry
  floor : Nat
  order : Bool
  unclaimed : Bool
  fwOrder : Bool
  badSource : Nat
  snapDepth : Nat
  faultCount : Nat
  faultAgain : BitVec 16
  snap : List (StackEntry × Bool)
  /-- priorities whose message is outstanding (R345) -/
  outstanding : List Nat
  /-- target last chosen under LOWEST (R343): 0 to 3 for C0 to C3, 4 for H -/
  lastChosen : Nat
  /-- of each Compass core: whether it sleeps, its running priority and its FLOOR -/
  coresAsleep : List Bool
  corePrio : List Nat
  coreFloor : List Nat
  deriving DecidableEq, Repr

/-- What a meaning tells the relay: a pulse of a source, or a new level of one (R335). -/
inductive Signal
  | pulse (source : Nat)
  | level (source : Nat) (on : Bool)
  deriving DecidableEq, Repr

/-! ## Watch domain -/

/-- A Watch monitor (R53 to R57). -/
structure Monitor where
  enable : Bool
  mode : Nat
  lo : Nat
  hi : Nat
  period : Bool
  j : Nat
  /-- 0 inside, 1 BELOW, 2 ABOVE, 3 not evaluated or disabled -/
  state : Nat
  belowSeen : Bool
  aboveSeen : Bool
  /-- latches of the running period (PERIOD) -/
  belowNow : Bool
  aboveNow : Bool
  deriving DecidableEq, Repr

/-- The SET_MONITOR fields that a bank holds. -/
structure MonitorCfg where
  enable : Bool
  mode : Nat
  lo : Nat
  hi : Nat
  period : Bool
  j : Nat
  deriving DecidableEq, Repr

/-- ER_WATCH (R349). -/
structure WatchEntry where
  source : Nat
  sense : BitVec 3
  enable : Bool
  deriving DecidableEq, Repr

/-- The payload of a settings bank (R368). -/
structure Settings where
  strict : Bool
  k : Nat
  tb : TbCfg
  spread : List Spread
  tempStep : Nat
  slewGr : Nat
  steer : Int
  chans : List ChanCfg
  deskew : List (List (Int × Int × Int))
  clkStaged : List Clkout
  clkAuto : Bool
  routes : List Route
  lines : List TrigLine
  srcCfg : List SrcCfg
  floor : Nat
  watch : List WatchEntry
  monitors : List MonitorCfg
  autoOpen : Bool
  rbufPages : Nat
  deriving DecidableEq, Repr

/-! ## Firmware work that waits -/

/-- An effect that waits for its tick (R18, R30, R297). -/
inductive Effect
  | policy (strict : Bool)
  | channel (first last : Nat) (cfg : ChanCfg)
  | levels (first last : Nat) (setA setB : Bool) (thrA hysA thrB hysB : Nat)
  /-- a level that AUTO_LEVEL or tracking sets; `adapt` marks an adaptation -/
  | thrA (ch thr : Nat) (hys : Option Nat) (adapt : Bool)
  | timebase (cfg : TbCfg)
  | refPolicy (jump slewRate : Nat)
  | calPolicy (tempStep slewGr : Nat)
  | item (num : Nat) (item : Item)
  | deleteItem (num : Nat)
  | coefSet (num : Nat) (set : CoefSet)
  | mask (num : Nat) (segs : List Segment)
  | routes (routes : List (Nat × Route)) (lines : List (Nat × TrigLine))
  | contour (num : Nat) (cfg : MapCfg) (base : Nat)
  | deleteContour (num : Nat)
  | clearContour (mask : BitVec 16)
  /-- STEP_BEARING's part on the staged FINE_DLY of an output (R132) -/
  | stageBearing (output : Nat) (steps : Int)
  /-- the constants that the DESKEW under way has found or was given (R109 to R111) -/
  | deskew
  /-- the settings of a bank, but for the channels of the FE banks listed (R31) -/
  | loadSettings (bankB : Bool) (settings : Settings) (skip : List Nat)
  deriving DecidableEq, Repr

/-- A deferred effect: its tick, the opcode of its command and its number in acceptance order. -/
structure Deferred where
  tick : Nat
  opcode : Nat
  effect : Effect
  deriving DecidableEq, Repr

/-- CHECK_INPUT in progress (R50). -/
structure CheckRun where
  slot : Nat
  channels : List Nat
  first : Nat
  /-- per channel: results of comparators A and B, step 0 first -/
  results : List (List Nat × List Nat)
  cancelled : Bool
  deriving DecidableEq, Repr

/-- One channel of an AUTO_LEVEL search (R173). -/
structure LevelSearch where
  ch : Nat
  skipped : Bool
  code : Nat
  top : Nat
  bot : Nat
  deriving DecidableEq, Repr

/-- AUTO_LEVEL in progress. -/
structure LevelRun where
  slot : Nat
  pct : Nat
  hysAuto : Bool
  dwell : Nat
  /-- step under way, from 1; 0 before the first tick -/
  step : Nat
  stepFrom : Nat
  chans : List LevelSearch
  cancelled : Bool
  deriving DecidableEq, Repr

/-- Partition commands in progress: partition, slot, action, frame of entry. -/
structure PartRun where
  part : Nat
  slot : Option Nat
  action : Nat
  deriving DecidableEq, Repr

/-- A partition (R11, R376). -/
structure Partition where
  gen : BitVec 16
  inReset : Bool
  down : Bool
  deriving DecidableEq, Repr

/-- A SELF_TEST in progress (R334): the slot, the tests selected, those that the hardware fails, the channels that fail test 2,
the results so far and whether it is to be cancelled. -/
structure TestRun where
  slot : Nat
  tests : Nat
  fails : List Nat
  bad : List Nat
  results : List Nat
  cancelled : Bool
  deriving DecidableEq, Repr

/-- Firmware's own work: what waits and what runs. -/
structure Firmware where
  deferred : List Deferred
  check : Option CheckRun
  levels : Option LevelRun
  /-- channels whose switches go back to the pin at the next tick, with or without their comparators' settings
  (R18, R47) -/
  restores : List (Nat × Bool)
  partRuns : List PartRun
  parts : List Partition
  eccCorrected : Nat
  eccUncorrectable : Nat
  /-- uncorrectable errors in Compass or engine memory: the coarse counts of those of the last second (R382) -/
  eccTimes : List Nat
  /-- the coarse count at which source 373 was last raised for a corrected error -/
  eccRaised : Option Nat
  temps : List Int
  /-- hottest sensor of the last evaluation was above 108.0 °C -/
  hotBefore : Bool
  /-- milliseconds at or below 97.0 °C and at or below 95.0 °C -/
  coolShed : Nat
  coolFault : Nat
  /-- FAULT 0x03 waits for the die to cool -/
  thermal : Bool
  /-- the last multiple of 2,500,000 at which firmware has evaluated the sensors, or which passed without it (R389) -/
  thermalAt : Nat
  /-- the Watch domain holds the Survey groups and CHART in reset (R389) -/
  hwHeld : Bool
  /-- FAULT 0x02 waits for lock and the start-up calibration -/
  relock : Bool
  /-- in order of acceptance -/
  selfTests : List TestRun
  /-- firmware has started in this BOOT (R361 step 6) -/
  started : Bool
  deriving DecidableEq, Repr

/-! ## The Gazetteer -/

/-- A settings bank (R367): the header's fields but for the reserved bytes, which are 0, the payload as bytes and the settings
that these stand for. -/
structure Bank where
  magic : BitVec 32
  sequence : Nat
  format : BitVec 16
  gen : BitVec 16
  crc : Nat
  payload : List Byte
  /-- FW_VERSION of the firmware that wrote it, which FORMAT follows -/
  writer : BitVec 24
  settings : Settings
  /-- a word of it is uncorrectable (R355) -/
  bad : Bool
  deriving DecidableEq, Repr

/-- A slot record (R359). -/
structure SlotRecord where
  valid : Byte
  length : Nat
  version : BitVec 24
  svn : Nat
  actSeq : Nat
  crc : Nat
  bad : Bool
  deriving DecidableEq, Repr

/-- A firmware slot: what its region holds, if it is an image, whether a word of it is uncorrectable, and its record. -/
structure FwSlot where
  image : Option Image
  bad : Bool
  record : SlotRecord
  deriving DecidableEq, Repr

/-- A copy of the anti-rollback counter (R360). -/
structure RollbackCopy where
  value : Nat
  crc : Nat
  bad : Bool
  deriving DecidableEq, Repr

/-- A public key: a point of P-384 in affine coordinates (R356). -/
structure PublicKey where
  x : Nat
  y : Nat
  deriving DecidableEq, Repr

/-- The KEYS block. -/
structure Keys where
  key0 : PublicKey
  key1 : PublicKey
  crc : Nat
  bad : Bool
  deriving DecidableEq, Repr

/-- The IDENTITY block. -/
structure Identity where
  serial : BitVec 64
  subsystem : BitVec 32
  gradeS : Bool
  crc : Nat
  bad : Bool
  deriving DecidableEq, Repr

/-- A Gazetteer write in progress (R371, R374): slot of the command, and what becomes valid. -/
inductive NvmJob
  | store (slot : Option Nat) (bankB : Bool) (bank : Bank) (energy : Nat)
  /-- `left` writes are still to complete: the pages, then the slot record; 0 where one that was begun makes nothing valid -/
  | update (slot : Option Nat) (slotB : Bool) (image : Image) (left : Nat)
  deriving DecidableEq, Repr

/-- The Gazetteer's contents (R354 to R367). -/
structure Gazetteer where
  bankA : Option Bank
  bankB : Option Bank
  slotA : FwSlot
  slotB : FwSlot
  rollback0 : RollbackCopy
  rollback1 : RollbackCopy
  board : BitVec 512
  boardBad : Bool
  identity : Identity
  keys : Keys
  /-- D_pkg of each channel: comparator A LOW, A HIGH, B LOW, B HIGH; zeros where a channel has none (R108) -/
  dPkg : List (List Int)
  /-- threshold trim of each channel's comparators (R35), and the DCO's temperature coefficients (R118) -/
  thrTrim : List (List Int)
  dcoCoef : List Int
  job : Option NvmJob
  deriving DecidableEq, Repr

/-- A hold-up measurement in progress (R372): the GET_HOLDUP slots that wait, and the STORE_SETTINGS that
waits, the version of the firmware that runs it and the settings that it has captured. -/
structure Holdup where
  getSlots : List Nat
  store : Option (Nat × BitVec 24 × Settings)
  deriving DecidableEq, Repr

/-- The Watch domain (11, 14, 15, 17). -/
structure Watch where
  powered : Bool
  monitors : List Monitor
  latchAgain : BitVec 16
  holdup : Option Holdup
  /-- monitor 15 is in its response time after a measurement, for as many coarse cycles at most (R56) -/
  borrowTail : Nat
  /-- a SET_MONITOR 15 accepted while the monitor is borrowed (R334) -/
  laterMonitor : Option MonitorCfg
  /-- GET_HOLDUP figures of the last measurement: V, E, C, Vmin -/
  holdupResult : Nat × Nat × Nat × Nat
  entries : List WatchEntry
  /-- SEEN of ER_WAKE -/
  seen : BitVec 32
  wakeAgain : BitVec 16
  alert : Bool
  hWake : Bool
  /-- PERST_N as the main part sees it: out of reset -/
  perstN : Bool
  /-- PERST_N has risen, and the main part still waits for its rails (R405) -/
  held : Bool
  pwrFailN : Bool
  straps : Straps
  gaz : Gazetteer
  /-- ER_WATCH was written from a bank since power-on (R349) -/
  watchLoaded : Bool
  postedState : OpState
  faultN : Bool
  /-- the instruction register of the TAP (R412); IDCODE at reset (PRESUMED, log 133) -/
  tapIr : Byte
  /-- an SMBus transfer is under way -/
  smbusBusy : Bool
  /-- the responder answered the PEC byte of the last block write with NACK -/
  smbusNack : Bool
  deriving DecidableEq, Repr

/-- The start-up (R361 to R366, R374, R375). -/
structure Boot where
  /-- the main part is out of reset and the sequence runs -/
  running : Bool
  /-- 0 recovery, 1 A, 2 B, 3 host-loaded, as IDENTIFY codes it -/
  activeSlot : Nat
  failedA : Bool
  failedB : Bool
  /-- the host load has brought an image -/
  hostImage : Option Image
  /-- ROM at work on a host load in slot 0 -/
  loading : Bool
  /-- the settings in force at the last tick, with CLK_AUTO and AUTO_OPEN clear (R371) -/
  atTick : Option Settings
  /-- a host load succeeded, and its command ends with BOOT (R364) -/
  loadDone : Bool
  /-- a restart of COMPASS by ACTIVATE_FIRMWARE, with the state that follows -/
  activation : Option OpState
  /-- the image that ran before an activation, coded as `activeSlot` -/
  previous : Nat
  /-- UPDATE_FIRMWARE waiting for its DMA read: mailbox slot, target slot B, length -/
  update : Option (Nat × Bool × Nat)
  cancelled : Bool
  activeBankB : Option Bool
  /-- the settings of step 8 are loaded -/
  loaded : Bool
  deriving DecidableEq, Repr

/-- Everything of the Naset that a frame tick can reach: all but the relay's main part, the Watch domain
and the start-up. -/
structure Dev where
  gs : Global
  host : HostLink
  ring : Ring
  chans : List Channel
  cal : Calibration
  tb : TimeBase
  survey : Survey
  cap : Capture
  atlas : Atlas
  fw : Firmware
  /-- signals to the relay that the step under way has made, oldest first -/
  signals : List Signal
  deriving DecidableEq, Repr

/-- The state of the block. `pending` is the queue of commands that wait, oldest first. -/
structure State where
  pending : List Instr
  dev : Dev
  relay : Relay
  watch : Watch
  boot : Boot
  deriving DecidableEq, Repr

/-! ## Reset values -/

def Slot.reset : Slot :=
  { tag := 0, partialWords := 0, progress := 0, error := 0, st := .free,
    cmd := List.replicate 32 0, resp := List.replicate 64 0 }

def LinkState.reset : LinkState :=
  { d3hot := false, busMaster := false, msixEnable := false, msixFunctionMask := false, linkUp := false, lanes := 0 }

def RingCfg.reset : RingCfg :=
  { dma := false, hbase := 0, hlenLog2 := 12, wb := 0, notify := false, notifyEvery := 1 }

def Ring.reset : Ring :=
  { wc := 0, cfg := RingCfg.reset, pendingCfg := none, hwc := 0, hrc := 0, dropBatches := 0,
    dropReadings := 0, droppedRun := 0, jobs := [], batchCount := 0, damaged := false, hostWrites := [] }

/-- R31, R67, R148. -/
def ChanCfg.reset : ChanCfg :=
  { term := .opn, highRange := false, modeA := .park, modeB := .park, bFunc := .level,
    latchFrame := false, lineMode := none, edgeSel := .both, decim := 1,
    thrA := 5461, hysA := 10, thrB := 5461, hysB := 10 }

/-- A parked comparator at its reset codes, UNSETTLED (R31); its output and latches DESIGN CHOICE, log 26. -/
def Comparator.reset : Comparator :=
  { mode := .park, thr := 5461, hys := 10, out := false, sent := false, settled := false, settleEnd := 0,
    rose := false, fell := false, lastRose := false, lastFell := false, judgeFrom := 0,
    sawHigh := false, sawLow := false, judgedEdges := 0 }

def Line.reset : Line :=
  { table := .linear, before := none, p := (512, 1), tRef := 0, slew := none, cand := none, hist := [], histCount := 0,
    complete := none, obs := [], lastReason := none, rejections := 0, stale := false, onLinear := true,
    runDone := false, rejectedInRun := false, marked := false }

def HealthBlock.reset : HealthBlock :=
  { skip := 0, frames := List.replicate 5 0, edges := List.replicate 5 0, stars := List.replicate 5 0 }

def Deskew.reset : Deskew := { pkg := 0, intRise := 0, intFall := 0, fix := 0 }

def Channel.reset : Channel :=
  { cfg := ChanCfg.reset, a := Comparator.reset, b := Comparator.reset, switch := .pin, mode := .quad,
    firstChoice := .quad, deal := 0, prescale := 0, pulse := none, inLines := [], fifo := [], fifoAt := 0,
    assembled := [], badCycle := none, localCount := 0, localAt := 0, parked := false, lostTotal := 0, lastLoss := 0,
    stampCheckTotal := 0, disagreeTotal := 0, frames := [], lastRise := none, lastFall := none, early := none, lines := List.replicate 5 Line.reset,
    health := HealthBlock.reset, deskew := List.replicate 4 Deskew.reset, levels := none, levelPct := 50, probe := 0,
    heldB := false }

def Calibration.reset : Calibration :=
  { log := [], logCount := 0, tempStep := 8, slewGr := 1, frozen := false,
    pendingFreeze := none, run := none, deskew := none, calOut := false, startDone := false, measured := none }

def Spread.reset : Spread := { mode := 0, depth := 0, rate := 0 }

def Pll.reset : Pll :=
  { band := 0, fine := 0, count := 0, locked := false, reacquiring := false, openLoop := false, spread := Spread.reset,
    spreadBefore := Spread.reset, rampFrom := 0 }

/-- R120. -/
def TbCfg.reset : TbCfg :=
  { refSrc := 0, ref100MHz := false, outerBw := 3, innerBw := 2, jump := 0, slewRate := 100 }

/-- R129. -/
def Clkout.reset : Clkout :=
  { enable := false, idleLow := false, source := 0, n := 100, coarse := 0, fine := 0, keepAlive := false }

def ClkLive.reset : ClkLive :=
  { cfg := Clkout.reset, anchor := 0, committed := false, driven := false, moveLeft := 0, moveAt := 0, notBefore := 0, oldHigh := none,
    lowUntil := 0, stopped := false }

def Align.reset : Align :=
  { armed := false, role := false, hop := 0, echo := false, markersOn := false, pendingArm := none,
    linkDelay := 0, measured := false, residual := 0, measure := none, measureCancelled := false,
    apply := none, move := none, markerSeen := false, misaligned := false, validRun := 0, lastEcho := 0 }

def TimeBase.reset : TimeBase :=
  { coarse := 0, coarseCheck := 0, epoch := 0, running := false, frame := 0, before := 0, k := 16, pendingK := none,
    anchorFrame := 0, anchorCount := 0, anchorK := 16, tickCount := 0, meridian := Pll.reset,
    engine := Pll.reset, store := Pll.reset, chart := Pll.reset, lastLoss := 0, warm := false,
    warmNext := false, ocxoWarm := false, ocxoFell := false, warmSince := 0, means := [], evaluated := 0,
    cfg := TbCfg.reset, steer := 0, integral := 0, steerPast := [], steered := false,
    steerLimit := false, refPresent := false, refLocked := false, holdover := false, goodWindows := 0,
    windowEdges := [], lastEdge := none, windowBad := false, lockedWindows := 0, returnErrors := [], refPhase := 0,
    walk := none, walking := false, returnDue := none, syncAligned := false,
    paths := List.replicate 3 (List.replicate 5 Line.reset), dcoShift := 0, dcoMove := 0, dcoFrom := 0,
    clkStaged := List.replicate 4 Clkout.reset, clkLive := List.replicate 4 ClkLive.reset, commits := [],
    bearings := [], align := Align.reset }

/-- R218. -/
def Route.reset : Route :=
  { srcTrig := 0, srcForce := false, out := 0, atlas := false, holdoff := 0, firings := 0,
    suppressed := 0, last := none }

def TrigLine.reset : TrigLine :=
  { dir := 0, activeLow := false, outDly := 0, pulse := 64, level := false, due := [], ends := none }

def CoefSet.empty : CoefSet := { taps := [], total := 0, shift := 0 }

def Survey.reset : Survey :=
  { items := [], store := [], coefSets := List.replicate 32 [], coefStaging := List.replicate 32 none,
    masks := List.replicate 64 [], maskStaging := List.replicate 64 none, frames := [],
    routes := List.replicate 8 Route.reset, lines := List.replicate 8 TrigLine.reset, runLog := [],
    runLogCount := 0, leadIn := none, inRun := false, runStrict := false, steps := [], runK := 16, overruns := 0, lateness := 0, placement := [], sticky := [],
    senseB := List.replicate 96 1, histPages := [] }

def FbAddr.reset : FbAddr := { addr := 0, stride := 0, format := 0 }

/-- Entry i of the legend is (i, i, i) (R251). -/
def legendReset : List (BitVec 24) :=
  (List.range 256).map fun i => BitVec.ofNat 24 (i * 65536 + i * 256 + i)

def Sink.none : Sink := { maxRate := 0, maxLanes := 0, downSpread := false }

/-- R259. -/
def Chart.reset : Chart :=
  { legend := legendReset, renders := [], buffers := [], scanEn := false, scanNow := false,
    crcEn := false, check := 0, staged := FbAddr.reset, slot := none, slotLate := false, live := FbAddr.reset,
    refused := false, commitFrame := 0, line := 0, frame := 0, bg := 0, underruns := 0,
    lastUnderrun := 0, missing := [], crcValid := 0, crcMismatch := 0, crcFrame := 0, crcCount := 0,
    crcValue := List.replicate 8 0, crcExpect := List.replicate 8 0, rects := List.replicate 8 none,
    pendingRects := [], mode := 0, rate := 0, lanes := 0, maxLanes := 0, maxRate := 0, linkUp := false, hpd := false,
    sink := Sink.none, change := none, suspend := 0, scanning := false, resumeDue := false,
    shed := false, skippedRenders := 0 }

def Capture.reset : Capture :=
  { mem := [], traverses := [], maps := [], chart := Chart.reset, rbuf := none, poisoned := [] }

/-- R274. -/
def AtlasPolicy.reset : AtlasPolicy :=
  { rdMode := 0, itemLo := 0, itemHi := 1023, rdFrames := 1024, saveFrozen := false, mapSave := 0,
    stopWhenFull := false }

def Atlas.reset : Atlas :=
  { st := .closed, policy := AtlasPolicy.reset, pendingPolicy := none, targets := [], formatted := false, formatId := 0,
    seqNext := 1, lastFenced := 0, sheets := [], laid := 0, programmed := 0, copies := [], blocks := [], nextPage := 0,
    ahead := [], rewrites := [], turn := 0, inflight := [], moves := [], lost := [], badCopies := [], ddr := [], initialised := false, hour := 0, collecting := [], gap := none, dropped := 0, gaps := 0, truncatedSheets := 0, dropSinceFence := false, fences := [],
    reads := [], opening := none, formatting := none, scrubs := [], usableMiB := 0,
    codewords := List.replicate 8 (List.replicate 4 0), appended := 0, pagesDone := 0, refreshed := 0, discarded := 0,
    cleanClose := true, filled := false, unpowered := false, powerHeld := false, rbufPages := 256 }

def Partition.reset : Partition := { gen := 0, inReset := false, down := false }

def Firmware.reset : Firmware :=
  { deferred := [], check := none, levels := none, restores := [], partRuns := [],
    parts := List.replicate 57 Partition.reset, eccCorrected := 0,
    eccUncorrectable := 0, eccTimes := [], eccRaised := none, temps := List.replicate 24 0,
    hotBefore := false, coolShed := 0, coolFault := 0,
    thermal := false, thermalAt := 0, hwHeld := false, relock := false, selfTests := [], started := false }

def Global.reset : Global :=
  { op := .boot, lastError := 0, gen := 0, epochs := 0, strict := false, flags := 0, flagsAgain := 0,
    fwVersion := 0, transitions := [], faultCode := 0, hardExit := false, before := .ready, free := 0 }

/-- Every vector masked, as PCIe Base 5.0 resets the table (R304). PRESUMED, log 25. -/
def msixReset : List Lane := (List.replicate 64 [0, 0x100000000]).flatten

def HostLink.reset : HostLink :=
  { slots := List.replicate 16 Slot.reset, queue := [], link := LinkState.reset,
    msixTable := msixReset, msixPending := [], msixSent := [], readValue := 0, aerCount := 0 }

def Dev.reset : Dev :=
  { gs := Global.reset, host := HostLink.reset, ring := Ring.reset,
    chans := List.replicate 96 Channel.reset, cal := Calibration.reset, tb := TimeBase.reset,
    survey := Survey.reset, cap := Capture.reset, atlas := Atlas.reset, fw := Firmware.reset,
    signals := [] }

def SrcCfg.reset : SrcCfg :=
  { prio := 0, sense := 0, targets := 0, wake := false, hostOwned := false, lowest := false }

def Source.reset : Source :=
  { cfg := SrcCfg.reset, level := false, pend := false, byLevel := false, masked := true,
    lost := 0, chosen := none }

def Relay.reset : Relay :=
  { sources := List.replicate 384 Source.reset, shadow := List.replicate 12 0, stack := [], floor := 0,
    order := false, unclaimed := false, fwOrder := false, badSource := 0, snapDepth := 0,
    faultCount := 0, faultAgain := 0, snap := [], outstanding := [], lastChosen := 0,
    coresAsleep := List.replicate 4 false, corePrio := List.replicate 4 0, coreFloor := List.replicate 4 0 }

/-- Monitors 0 to 7: enabled, M2, ±10 % of the nominal rail, each code rounded (R53). Nominal in mV and
scale. -/
def railMonitor (mv scale : Nat) : Monitor :=
  { enable := true, mode := 2, lo := (2 * (mv * 900 * 1000) / (390625 * scale) + 1) / 2,
    hi := (2 * (mv * 1100 * 1000) / (390625 * scale) + 1) / 2, period := false, j := 20, state := 3,
    belowSeen := false, aboveSeen := false, belowNow := false, aboveNow := false }

/-- Monitors 8 to 15 (R53, R57). -/
def externalMonitor : Monitor :=
  { enable := false, mode := 0, lo := 0, hi := 4095, period := false, j := 20, state := 3,
    belowSeen := false, aboveSeen := false, belowNow := false, aboveNow := false }

def monitorsReset : List Monitor :=
  [railMonitor 750 1, railMonitor 850 1, railMonitor 1000 1, railMonitor 2500 2, railMonitor 1100 1,
   railMonitor 1800 2, railMonitor 1200 1, railMonitor 900 1] ++ List.replicate 8 externalMonitor

def SlotRecord.empty : SlotRecord := { valid := 0, length := 0, version := 0, svn := 0, actSeq := 0, crc := 0, bad := false }

def FwSlot.empty : FwSlot := { image := none, bad := false, record := SlotRecord.empty }

def RollbackCopy.empty : RollbackCopy := { value := 0, crc := 0, bad := false }

def Keys.empty : Keys := { key0 := ⟨0, 0⟩, key1 := ⟨0, 0⟩, crc := 0, bad := false }

def Identity.empty : Identity := { serial := 0, subsystem := 0, gradeS := false, crc := 0, bad := false }

/-- A blank Gazetteer: no valid bank, no valid slot, no declared hold-up. DESIGN CHOICE, log 23. -/
def Gazetteer.blank : Gazetteer :=
  { bankA := none, bankB := none, slotA := FwSlot.empty, slotB := FwSlot.empty, rollback0 := RollbackCopy.empty,
    rollback1 := RollbackCopy.empty, board := 0, boardBad := false, identity := Identity.empty, keys := Keys.empty, dPkg := [],
    thrTrim := [], dcoCoef := [], job := none }

def WatchEntry.reset : WatchEntry := { source := 0, sense := 0, enable := false }

def Straps.zero : Straps := { bootSrc := 0, peWidth := 0, devAddr := 0 }

def Watch.reset : Watch :=
  { powered := true, monitors := monitorsReset, latchAgain := 0, holdup := none, borrowTail := 0, laterMonitor := none,
    holdupResult := (0, 0, 0, 0), entries := List.replicate 32 WatchEntry.reset, seen := 0,
    wakeAgain := 0, alert := false, hWake := false, perstN := false, held := false, pwrFailN := true,
    straps := Straps.zero, gaz := Gazetteer.blank, watchLoaded := false, postedState := .boot,
    faultN := true, smbusBusy := false, smbusNack := false, tapIr := 0x01 }

def Boot.reset : Boot :=
  { running := false, activeSlot := 0, failedA := false, failedB := false, hostImage := none,
    loading := false, loadDone := false, atTick := none, activation := none, previous := 0, update := none, cancelled := false, activeBankB := none,
    loaded := false }

/-- The block right after power-on reset, PERST_N still asserted (R8, R11, R406); what the spec gives no value for is
DESIGN CHOICE, log 22 to 30. -/
def State.reset : State :=
  { pending := [], dev := Dev.reset, relay := Relay.reset, watch := Watch.reset, boot := Boot.reset }

end Sys2Proof.Machine
end

