-- ==== Sys2Proof/Machine/Ops.lean ====
section
/-! DEFINITION. The named operations on the device's state that the meanings share: the capture store's
words, channels, flags, signals, the logs, ticks, MSI-X messages, mailbox results and partitions. -/

namespace Sys2Proof.Machine

/-! ## The capture store (R223): unlisted words are zero (R361 step 7) -/

/-- The form in which a store is held: addresses rising, no listed word zero. -/
abbrev Mem.wf (m : List (Nat × Word)) : Prop :=
  m.Pairwise (fun a b => a.1 < b.1) ∧ ∀ c ∈ m, c.2 ≠ 0

/-- The word at an address. -/
def Mem.read : List (Nat × Word) → Nat → Word
  | [], _ => 0
  | (a, w) :: r, x => if a = x then w else Mem.read r x

/-- The store with one word written. -/
def Mem.write : List (Nat × Word) → Nat → Word → List (Nat × Word)
  | [], x, v => if v = 0 then [] else [(x, v)]
  | (a, w) :: r, x, v =>
    if x < a then (if v = 0 then (a, w) :: r else (x, v) :: (a, w) :: r)
    else if x = a then (if v = 0 then r else (a, v) :: r)
    else (a, w) :: Mem.write r x v

/-- The store with zeros in n words from lo. -/
def Mem.zero (m : List (Nat × Word)) (lo n : Nat) : List (Nat × Word) :=
  m.filter fun c => c.1 < lo || lo + n ≤ c.1

/-- The store with words written one after another from an address. -/
def Mem.writes (m : List (Nat × Word)) : Nat → List Word → List (Nat × Word)
  | _, [] => m
  | x, w :: ws => Mem.writes (Mem.write m x w) (x + 1) ws

/-- Words written into a ring of `len` words at `base`, from counter value c on (R234, R307). -/
def Mem.ringWrites (m : List (Nat × Word)) (base len c0 : Nat) : Nat → List Word → List (Nat × Word)
  | _, [] => m
  | c, w :: ws => Mem.ringWrites (Mem.write m (base + (c - c0) % len) w) base len c0 (c + 1) ws

/-- The store after a write: the words that it hit are no longer poisoned (R224). -/
def Capture.put (c : Capture) (mem : List (Nat × Word)) (hit : Nat → Bool) : Capture :=
  { c with mem := mem, poisoned := c.poisoned.filter fun a => !hit a }

/-- The n words from an address on. -/
def span (lo n a : Nat) : Bool := decide (lo ≤ a) && decide (a < lo + n)

/-- The n words of a ring of `len` words at `base`, from counter value c on. -/
def ringSpan (base len c0 c n a : Nat) : Bool := (List.range n).any fun i => base + (c + i - c0) % len == a

/-! ## Records of the device -/

def Dev.onGs (d : Dev) (f : Global → Global) : Dev := { d with gs := f d.gs }
def Dev.onHost (d : Dev) (f : HostLink → HostLink) : Dev := { d with host := f d.host }
def Dev.onRing (d : Dev) (f : Ring → Ring) : Dev := { d with ring := f d.ring }
def Dev.onCal (d : Dev) (f : Calibration → Calibration) : Dev := { d with cal := f d.cal }
def Dev.onTb (d : Dev) (f : TimeBase → TimeBase) : Dev := { d with tb := f d.tb }
def Dev.onSurvey (d : Dev) (f : Survey → Survey) : Dev := { d with survey := f d.survey }
def Dev.onCap (d : Dev) (f : Capture → Capture) : Dev := { d with cap := f d.cap }
def Dev.onAtlas (d : Dev) (f : Atlas → Atlas) : Dev := { d with atlas := f d.atlas }
def Dev.onFw (d : Dev) (f : Firmware → Firmware) : Dev := { d with fw := f d.fw }
def Dev.onChart (d : Dev) (f : Chart → Chart) : Dev :=
  { d with cap := { d.cap with chart := f d.cap.chart } }
def Dev.onAlign (d : Dev) (f : Align → Align) : Dev := { d with tb := { d.tb with align := f d.tb.align } }

/-- Channel c. -/
def Dev.chan (d : Dev) (c : Nat) : Channel := d.chans.getD c Channel.reset

/-- Channel c changed. -/
def Dev.updChan (d : Dev) (c : Nat) (f : Channel → Channel) : Dev := { d with chans := d.chans.modify c f }

/-- Every channel changed, each knowing its number. -/
def Dev.updChans (d : Dev) (f : Nat → Channel → Channel) : Dev := { d with chans := d.chans.mapNum f }

/-- Line l of a channel. -/
def Channel.line (x : Channel) (l : Nat) : Line := x.lines.getD l Line.reset

def Channel.updLine (x : Channel) (l : Nat) (f : Line → Line) : Channel := { x with lines := x.lines.modify l f }

/-- The comparators of a channel. -/
def Channel.comp (x : Channel) (compB : Bool) : Comparator := if compB then x.b else x.a

def Channel.updComp (x : Channel) (compB : Bool) (f : Comparator → Comparator) : Channel :=
  if compB then { x with b := f x.b } else { x with a := f x.a }

/-! ## Flags and signals -/

/-- Bits of GS_FLAGS (12). -/
def flagFault : Nat := 0
def flagOverrun : Nat := 1
def flagLost : Nat := 2
def flagHoldover : Nat := 3
def flagRefReturned : Nat := 4
def flagCalRejected : Nat := 5
def flagThermal : Nat := 6
def flagHoldupLow : Nat := 7
def flagMediaWarn : Nat := 8
def flagRelayFault : Nat := 9
def flagPartReset : Nat := 10
def flagUnderrun : Nat := 11
def flagCrcMismatch : Nat := 12

/-- Hardware sets a bit of GS_FLAGS. -/
def Dev.setFlag (d : Dev) (i : Nat) : Dev := d.onGs fun g => { g with flags := g.flags ||| BitVec.ofNat 64 (2 ^ i) }

/-- A pulse of an Event Relay source. -/
def Dev.pulse (d : Dev) (n : Nat) : Dev := { d with signals := d.signals ++ [.pulse n] }

/-- A new level of an Event Relay source. -/
def Dev.level (d : Dev) (n : Nat) (on : Bool) : Dev := { d with signals := d.signals ++ [.level n on] }

/-- The next free value's number, and the state in which it is used up. -/
def Dev.nextFree (d : Dev) : Nat × Dev := (d.gs.free, d.onGs fun g => { g with free := g.free + 1 })

/-- Dev changed where a condition holds. -/
def Dev.when (d : Dev) (b : Bool) (f : Dev → Dev) : Dev := if b then f d else d

/-- A step for each entry of a list, in order. -/
def Dev.each {α : Type} (d : Dev) (l : List α) (f : Dev → α → Dev) : Dev := l.foldl f d

/-! ## Partitions (R11, R322) -/

def partStamp : Nat := 12
def partSurvey (g : Nat) : Nat := 13 + g
def partCapture : Nat := 44
def partChart : Nat := 45
def partAtlas (c : Nat) : Nat := 46 + c
def partHost : Nat := 54
def partCompass : Nat := 55
def partMeridian : Nat := 56

def Dev.part (d : Dev) (p : Nat) : Partition := d.fw.parts.getD p Partition.reset

/-- Neither in reset nor powered down. -/
def Dev.partUp (d : Dev) (p : Nat) : Bool := !(d.part p).inReset && !(d.part p).down

def Dev.updPart (d : Dev) (p : Nat) (f : Partition → Partition) : Dev :=
  d.onFw fun w => { w with parts := w.parts.modify p f }

/-- The FE bank of a channel (R27). -/
def bankOf (c : Nat) : Nat := c / 8

/-- The partner of a channel (R27, R42). -/
def partnerOf (c : Nat) : Nat := if c % 2 = 0 then c + 1 else c - 1

/-! ## Ticks (R59, R177, R178) -/

/-- The nominal extended count of the tick of frame f, from the anchor. -/
def TimeBase.nominal (t : TimeBase) (f : Nat) : Nat := t.anchorCount + (f - t.anchorFrame) * 2 ^ t.anchorK

/-- The number of the frame that the next tick opens. -/
def Dev.nextTick (d : Dev) : Nat := d.tb.frame + 1

/-- The extended coarse count now, as far as the device has come. -/
def TimeBase.now (t : TimeBase) : Nat :=
  (t.tickCount / 2 ^ 48) * 2 ^ 48 + t.coarse.toNat

/-- The time of the tick that opened the frame in progress, in gr. -/
def TimeBase.tickTime (t : TimeBase) : Nat := t.tickCount * 4096

/-- The count brought forward to an extended coarse count, epoch with it (R58). Both counters move. -/
def TimeBase.advance (t : TimeBase) (cc : Nat) : TimeBase :=
  { t with coarse := BitVec.ofNat 48 cc, coarseCheck := BitVec.ofNat 48 cc, epoch := BitVec.ofNat 16 (cc / 2 ^ 48) }

/-- The shadow line of a frame under the rotation (R87). -/
def shadowLine (frame : Nat) : Nat := frame % 2 ^ 40 % 5

/-! ## The run log (R192) -/

/-- A record of the run log. -/
def Dev.log (d : Dev) (type detail frame : Nat) (value : Int) : Dev :=
  d.onSurvey fun s =>
    { s with
      runLog := (s.runLog ++ [[word [(35, 32, type), (31, 0, detail)], w36 frame] ++ wordsT72 value]).drop
        (s.runLog.length + 1 - 4096),
      runLogCount := s.runLogCount + 1 }

/-- The record of the frame in progress changed. -/
def Dev.markFrame (d : Dev) (f : FrameInfo → FrameInfo) : Dev := d.onSurvey fun s => { s with frames := s.frames.modify 0 f }

/-- The generation has advanced already at the tick that opened the frame in progress. -/
def Dev.genMoved (d : Dev) : Bool :=
  match d.survey.frames with
  | a :: b :: _ => a.gen != b.gen
  | _ => false

/-- A configuration change applies at the tick just past: the generation advances, once a tick (R191). -/
def Dev.newGeneration (d : Dev) : Dev :=
  if d.genMoved then d
  else
    ((d.onGs fun g => { g with gen := g.gen + 1 }).markFrame fun i => { i with gen := d.gs.gen + 1 }).log 0x1
      (d.gs.gen + 1).toNat d.tb.frame 0

/-- The calibration epoch has advanced already at the tick that opened the frame in progress. -/
def Dev.epochMoved (d : Dev) : Bool :=
  match d.survey.frames with
  | a :: b :: _ => a.epoch != b.epoch
  | _ => false

/-- A table or a deskew constant changes at the tick just past: the epoch advances, once a tick (R98). -/
def Dev.newEpoch (d : Dev) : Dev :=
  if d.epochMoved then d
  else
    let n := d.gs.epochs + 1
    ((d.onGs fun g => { g with epochs := n }).markFrame fun i => { i with epoch := n }).log 0x2 (n % 4096) d.tb.frame 0

/-! ## MSI-X (R304) and the link -/

/-- Requests leave the function: power, bus mastering, link and the HOST partition allow it (R292, R380). -/
def Dev.canRequest (d : Dev) : Bool :=
  !d.host.link.d3hot && d.host.link.busMaster && d.host.link.linkUp && d.partUp partHost

/-- Vector v is not masked, by itself or with the function. -/
def Dev.vectorOpen (d : Dev) (v : Nat) : Bool :=
  d.host.link.msixEnable && !d.host.link.msixFunctionMask && !bit (d.host.msixTable.getD (2 * v + 1) 0) 32

/-- A message of vector v is sent, or held pending. -/
def Dev.msix (d : Dev) (v : Nat) : Dev :=
  if d.canRequest && d.vectorOpen v then d.onHost fun h => { h with msixSent := v :: h.msixSent }
  else d.onHost fun h => { h with msixPending := if v ∈ h.msixPending then h.msixPending else h.msixPending ++ [v] }

/-- The messages held pending that may go now are sent. -/
def Dev.flushMsix (d : Dev) : Dev :=
  let go := d.host.msixPending.filter fun v => d.canRequest && d.vectorOpen v
  d.onHost fun h =>
    { h with msixSent := go.reverse ++ h.msixSent, msixPending := h.msixPending.filter fun v => !(v ∈ go) }

/-! ## Mailbox results (R298, R299, R319) -/

def eOk : Nat := 0x00
def eDeferred : Nat := 0x01
def eOpcode : Nat := 0x10
def eParam : Nat := 0x11
def eState : Nat := 0x12
def eBudget : Nat := 0x13
def eResource : Nat := 0x14
def eBusy : Nat := 0x15
def eCancelled : Nat := 0x16
def eHoldup : Nat := 0x20
def eNvm : Nat := 0x21
def ePartReset : Nat := 0x30
def ePartDown : Nat := 0x31
def eCalReject : Nat := 0x40
def eNotWarm : Nat := 0x41
def eMedia : Nat := 0x50
def eMediaFull : Nat := 0x51
def eLink : Nat := 0x60
def eAuth : Nat := 0x70

/-- A refusal or failure: code, index of the word at fault, detail, and further response words. -/
structure Fail where
  code : Nat
  index : Nat
  detail : Nat
  resp : List Word
  deriving DecidableEq, Repr

/-- A failure with no word at fault. -/
def failAt (code index : Nat) : Fail := { code := code, index := index, detail := 0, resp := [] }
def failPlain (code : Nat) : Fail := failAt code 0xFFF

/-- A failure that names an object (R319). -/
def failObj (code index kind number : Nat) : Fail :=
  { code := code, index := index, detail := kind * 2 ^ 20 + number, resp := [] }

/-- How firmware leaves a command after acceptance (R298). -/
inductive Reply
  | ok (resp : List Word)
  | deferred (tick : Nat) (resp : List Word)
  | fail (f : Fail)
  /-- runs on over further steps -/
  | running
  deriving DecidableEq, Repr

def Dev.slot (d : Dev) (s : Nat) : Slot := d.host.slots.getD s Slot.reset

def Dev.updSlot (d : Dev) (s : Nat) (f : Slot → Slot) : Dev :=
  d.onHost fun h => { h with slots := h.slots.modify s f }

/-- Word i of the posted command of a slot. -/
def Dev.cmdWord (d : Dev) (s i : Nat) : Word := (d.slot s).cmd.getD i 0

/-- The slot holds a result: its state, code and response words; MSI-X vector 16 + s with NOTIFY. -/
def Dev.finish (d : Dev) (s : Nat) (failed : Bool) (code : Nat) (resp : List Word) : Dev :=
  let d1 := d.updSlot s fun x =>
    { x with st := if failed then .failed else .done, error := BitVec.ofNat 8 code,
             resp := fit 64 0 resp, partialWords := min 64 resp.length,
             progress := if failed then x.progress else 1000 }
  let d2 := d1.onGs fun g => { g with lastError := if failed then BitVec.ofNat 8 code else g.lastError }
  d2.when (bit (d.cmdWord s 0) 35) fun e => e.msix (16 + s)

/-- The fault word and what follows it. -/
def Fail.words (f : Fail) : List Word := word [(35, 24, f.index), (23, 0, f.detail)] :: f.resp

/-- A command finishes, or runs on. -/
def Dev.reply (d : Dev) (s : Nat) : Reply → Dev
  | .ok resp => d.finish s false eOk resp
  | .deferred tick resp => d.finish s false eDeferred (w36 tick :: resp)
  | .fail f => d.finish s true f.code f.words
  | .running => d.updSlot s fun x => { x with st := .running }

/-- PROGRESS of a running command (R298). -/
def Dev.progress (d : Dev) (s permille : Nat) : Dev :=
  d.updSlot s fun x => { x with progress := max x.progress (min 1000 permille) }

/-! ## Comparators -/

/-- The event of R45 at an extended coarse count: UNSETTLED at least until `cc + len` (R46). -/
def Comparator.unsettle (x : Comparator) (cc len : Nat) : Comparator :=
  { x with settled := false, settleEnd := max x.settleEnd (cc + len) }

/-- New settings in force at `cc`: UNSETTLED if any of them differs, or if the input path changed. -/
def Comparator.apply (x : Comparator) (cc : Nat) (mode : CompMode) (thr hys : Nat) (pathChanged : Bool) :
    Comparator :=
  let len := if x.mode = .park ∧ mode ≠ .park then 5000 else 375
  let y := if x.mode ≠ mode ∨ x.thr ≠ thr ∨ x.hys ≠ hys ∨ pathChanged then x.unsettle cc len else x
  { y with mode := mode, thr := thr, hys := hys, out := if mode = .park then false else y.out }

/-- Both comparators brought to the host's settings, B only where firmware does not hold it. A pulse that was
being judged is lost with the output of an UNSETTLED comparator (R41, R45). -/
def Channel.restore (x : Channel) (cc : Nat) (pathChanged : Bool) : Channel :=
  let y := { x with a := x.a.apply cc x.cfg.modeA x.cfg.thrA x.cfg.hysA pathChanged
                    b := if x.heldB then (if pathChanged then x.b.unsettle cc 375 else x.b)
                         else x.b.apply cc x.cfg.modeB x.cfg.thrB x.cfg.hysB pathChanged }
  if y.a.settled then y else { y with pulse := none }

/-- A switch position taken at `cc`: both comparators UNSETTLED if it differs (R45, R47). -/
def Channel.setSwitch (x : Channel) (cc : Nat) (p : Switch) : Channel :=
  if x.switch = p then x
  else { x with switch := p, a := x.a.unsettle cc 375, b := x.b.unsettle cc 375, pulse := none }

/-- Comparators in PARK and switches at the pin, with MODE left for a new SET_CHANNEL (R52, R79). -/
def Channel.park (x : Channel) (cc : Nat) : Channel :=
  let y := { x with cfg := { x.cfg with modeA := .park, modeB := .park }, heldB := false, pulse := none }
  { y with switch := .pin,
           a := { (y.a.apply cc .park y.cfg.thrA y.cfg.hysA (y.switch ≠ .pin)) with settled := false },
           b := { (y.b.apply cc .park y.cfg.thrB y.cfg.hysB (y.switch ≠ .pin)) with settled := false } }

/-- The output that the relay has been given; a comparator in PARK outputs low (R37). -/
def Comparator.shown (x : Comparator) : Bool := x.mode != .park && x.sent

/-- The policy in force: that of START while a run is open (R22). -/
def Dev.strict (d : Dev) : Bool := if d.survey.inRun then d.survey.runStrict else d.gs.strict

/-- The level of source 96 + c (R40), from the outputs delivered (R45). What level WINDOW is formed from before a
comparator's first state after settling has been delivered the spec does not say: each output counts as last delivered
(DESIGN CHOICE, log 180). -/
def Channel.sourceB (x : Channel) : Bool :=
  if x.cfg.bFunc = .window then
    (if x.a.thr ≤ x.b.thr then x.a.shown && !x.b.shown else x.b.shown && !x.a.shown)
  else x.b.sent

/-- Source 96 + c takes its level, unless comparator B is in PARK (R37). -/
def Dev.levelB (d : Dev) (c : Nat) : Dev :=
  d.when ((d.chan c).b.mode != .park) fun e => e.level (96 + c) (d.chan c).sourceB

/-- The output of a comparator delivered to the relay after a transition: A drives source c, B source 96 + c, and in
WINDOW both drive it (R40). Only the comparator that crossed is delivered (R45). A level of less than 20 ns, which the
relay may not see (R44), is delivered as any other (DESIGN CHOICE, log 126). -/
def Dev.compLevels (d : Dev) (c : Nat) (compB : Bool) : Dev :=
  let d1 := d.updChan c fun x => x.updComp compB fun z => { z with sent := z.out }
  let d2 := d1.when (!compB) fun e => e.level c (d1.chan c).a.sent
  d2.when (compB || (d1.chan c).cfg.bFunc == .window) fun e => e.levelB c

end Sys2Proof.Machine
end

