-- ==== Sys2Proof/Machine/Relay.lean ====
section
/-! DEFINITION. The Event Relay and its always-on part: sensing, pending and lost events, delivery to H and to the
Compass cores, claims, completions and order faults, ER_WATCH and ALERT_N (14), and the end of every step, at
which the signals it made are sensed. -/

namespace Sys2Proof.Machine

/-! ## Sources (R335, R336) -/

/-- A pulse source; the others present levels. -/
def isPulseSource (n : Nat) : Bool :=
  (192 ≤ n && n ≤ 351) || n == 368 || (370 ≤ n && n ≤ 373) || n == 382 || n == 383

/-- The default owner: true is the host. -/
def defaultHostOwned (n : Nat) : Bool :=
  n ≤ 191 || n == 316 || n == 317 || (343 ≤ n && n ≤ 345) || n == 348 || n == 349 ||
    (352 ≤ n && n ≤ 367) || n == 371 || n == 372 || (374 ≤ n && n ≤ 382)

/-- The owner of a source that no bank changes. -/
def fixedOwner (n : Nat) : Bool := 192 ≤ n && n ≤ 333

/-- A source that the always-on part can sense out of PERST_N too (R349). -/
def alwaysSensed (n : Nat) : Bool := (352 ≤ n && n ≤ 367) || n == 369 || n == 370 || (374 ≤ n && n ≤ 381)

def Watch.monitor (w : Watch) (m : Nat) : Monitor := w.monitors.getD m externalMonitor

/-- Monitor m does not report its rail below its window: the rail is taken to be present then (DEDUCED, log 170). -/
def Watch.railUp (w : Watch) (m : Nat) : Bool := (w.monitor m).state != 1

/-- The monitor of VDD_IO (R53). -/
def monitorIo : Nat := 5

/-- The always-on part senses the source at this moment: the TRIG lines only while VDD_IO is present (R349). -/
def Watch.senses (w : Watch) (n : Nat) : Bool :=
  if 374 ≤ n ∧ n ≤ 381 then w.railUp monitorIo else w.perstN || alwaysSensed n

def Relay.source (r : Relay) (n : Nat) : Source := r.sources.getD n Source.reset

def Relay.upd (r : Relay) (n : Nat) (f : Source → Source) : Relay := { r with sources := r.sources.modify n f }

/-! ## Sensing (R338 to R340) -/

/-- The level meets a level sense. -/
def levelMet (sense : BitVec 3) (level : Bool) : Bool :=
  (sense == 1 && level) || (sense == 2 && !level)

/-- A change of the input to `level` meets an edge sense. -/
def edgeMet (sense : BitVec 3) (level : Bool) : Bool :=
  sense == 5 || (sense == 3 && level) || (sense == 4 && !level)

/-- An event: pending, or lost if the source is pending already. -/
def Source.event (x : Source) : Source :=
  if x.pend then { x with lost := clampU 8 (x.lost + 1) } else { x with pend := true }

/-- A new input level. -/
def Source.input (x : Source) (on : Bool) : Source :=
  let y := { x with level := on }
  if x.level != on && edgeMet x.cfg.sense on then y.event else y

/-- One pulse: the input is asserted for one cycle. A pulse is an event under level-high too. -/
def Source.pulsed (x : Source) : Source :=
  if x.cfg.sense = 1 then x.event else ({ x with level := false }.input true).input false

/-- A level sense keeps the source pending, unless it is claimed (R339, R347). -/
def Source.resense (x : Source) (claimed : Bool) : Source :=
  if !claimed && !x.pend && levelMet x.cfg.sense x.level then { x with pend := true, byLevel := true } else x

def Relay.signal (r : Relay) : Signal → Relay
  | .pulse n => r.upd n Source.pulsed
  | .level n on => r.upd n fun x => x.input on

/-- The source is on H's stack. -/
def Relay.claimed (r : Relay) (n : Nat) : Bool := r.stack.any fun e => e.source == n

def Relay.resense (r : Relay) : Relay :=
  { r with sources := r.sources.mapNum fun n x => x.resense (r.claimed n) }

/-! ## Delivery (R341 to R344). Target 4 is H. -/

/-- H is asleep (R341). -/
def linkAsleep (l : LinkState) : Bool :=
  l.d3hot || !l.busMaster || !l.msixEnable || l.msixFunctionMask || !l.linkUp

/-- Priority of the top of H's stack, 0 if it is empty. -/
def Relay.runPrio (r : Relay) : Nat := (r.stack.head?.map StackEntry.prio).getD 0

def Relay.asleep (r : Relay) (hAsleep : Bool) (t : Nat) : Bool :=
  if t = 4 then hAsleep else r.coresAsleep.getD t false

/-- Running priority of a target; a sleeping one counts as 0 (R343). -/
def Relay.prioOf (r : Relay) (hAsleep : Bool) (t : Nat) : Nat :=
  if r.asleep hAsleep t then 0 else if t = 4 then r.runPrio else r.corePrio.getD t 0

/-- The target of lowest running priority among those given, ties after the last choice. -/
def Relay.lowest (r : Relay) (hAsleep : Bool) (ts : List Nat) : Option Nat :=
  let order := ((List.range 5).map fun i => (r.lastChosen + 1 + i) % 5).filter fun t => t ∈ ts
  order.find? fun t => order.all fun u => r.prioOf hAsleep t ≤ r.prioOf hAsleep u

/-- Pending, unmasked, of a priority above 0 (R341). -/
def Source.live (x : Source) : Bool := x.pend && !x.masked && 0 < x.cfg.prio

/-- The choice under LOWEST (R343, R344): the target of lowest running priority; where that one sleeps and the source wakes
none, the one among those awake. -/
def Relay.choice (r : Relay) (hAsleep : Bool) (x : Source) : Option Nat :=
  let ts := maskList 5 x.cfg.targets.toNat
  (r.lowest hAsleep ts).bind fun t =>
    if r.asleep hAsleep t && !x.cfg.wake then r.lowest hAsleep (ts.filter fun u => !r.asleep hAsleep u) else some t

/-- The choices for a list of sources in order, each after the target chosen before it, and the target chosen last. -/
def Relay.chooseFor (r : Relay) (hAsleep : Bool) : Nat → List Source → List Source × Nat
  | last, [] => ([], last)
  | last, x :: xs =>
    let t := if x.live && x.cfg.lowest then { r with lastChosen := last }.choice hAsleep x else none
    let rest := r.chooseFor hAsleep (t.getD last) xs
    ({ x with chosen := t } :: rest.1, rest.2)

/-- One decision of the relay: the choice is made afresh for every source of LOWEST = 1 that is pending. The model decides
once a step (DESIGN CHOICE, log 92). -/
def Relay.choose (r : Relay) (hAsleep : Bool) : Relay :=
  let c := r.chooseFor hAsleep r.lastChosen r.sources
  { r with sources := c.1, lastChosen := c.2 }

/-- The targets to which a pending source is offered: all of TARGETS, or the chosen one. -/
def Source.offered (x : Source) : List Nat :=
  if x.cfg.lowest then x.chosen.toList else maskList 5 x.cfg.targets.toNat

/-- Offered to H above its running priority and its floor, awake or not. -/
def Relay.forH (r : Relay) (x : Source) : Bool :=
  x.live && r.runPrio < x.cfg.prio && r.floor < x.cfg.prio && decide (4 ∈ x.offered)

/-- Deliverable to H. -/
def Relay.deliverable (r : Relay) (hAsleep : Bool) (x : Source) : Bool := !hAsleep && r.forH x

/-- Offered to core t above its running priority and its floor. -/
def Relay.offeredTo (r : Relay) (t : Nat) (x : Source) : Bool :=
  x.live && decide (t ∈ x.offered) && r.corePrio.getD t 0 < x.cfg.prio && r.coreFloor.getD t 0 < x.cfg.prio

/-- A Compass core takes it: offered to a core that is awake. -/
def Relay.forCore (r : Relay) (x : Source) : Bool :=
  (List.range 4).any fun t => !r.coresAsleep.getD t false && r.offeredTo t x

/-- Cores leave their park for a source of WAKE = 1 that is offered to them (R344). -/
def Relay.wakeCores (r : Relay) : Relay :=
  { r with coresAsleep := r.coresAsleep.mapNum fun t asleep =>
      asleep && !r.sources.any fun x => x.cfg.wake && r.offeredTo t x }

/-- A source of WAKE = 1 waits for a sleeping H (R344). -/
def Relay.wakesH (r : Relay) (hAsleep : Bool) : Bool :=
  hAsleep && r.sources.any fun x => x.cfg.wake && r.forH x

/-- The priorities that have a source deliverable to H and no message outstanding. -/
def Relay.newMessages (r : Relay) (hAsleep : Bool) : List Nat :=
  let ready := (r.sources.filter fun x => r.deliverable hAsleep x).map fun x => x.cfg.prio
  (List.range 16).filter fun p => !(decide (p ∈ r.outstanding)) && decide (p ∈ ready)

/-- The cores claim and complete, inside firmware, what is theirs (R346). When a core claims, R343 and R346 leave to the core
(DESIGN CHOICE, log 93). -/
def Relay.coreClaims (r : Relay) : Relay :=
  { r with sources := r.sources.map fun x => if r.forCore x then { x with pend := false, byLevel := false } else x }

/-- What firmware makes of its four targets from one tick to the next: which cores it parks, each one's running priority and its
FLOOR (R341). The spec leaves them to firmware (DESIGN CHOICE, log 93). -/
def Relay.firmwareCores (r : Relay) (n : Nat) : Relay :=
  { r with coresAsleep := (List.range 4).map (Config.coreParked n)
           corePrio := (List.range 4).map (Config.corePriority n)
           coreFloor := (List.range 4).map (Config.coreFloor n) }

/-! ## Claims and completions (R346 to R348) -/

/-- The source that a read of ER_CLAIM_H takes: the highest priority, the lowest number. -/
def Relay.best (r : Relay) (hAsleep : Bool) : Option (Nat × Source) :=
  let c := (r.sources.mapNum fun n x => (n, x)).filter fun x => r.deliverable hAsleep x.2
  c.find? fun x => c.all fun y => y.2.cfg.prio ≤ x.2.cfg.prio

/-- The lane that a claim returns. -/
def claimLane (n prio : Nat) (atClaim now : Bool) : Lane :=
  lane [(8, 0, n), (12, 9, prio), (16, 16, b2n atClaim), (17, 17, b2n now)]

/-- A claim: the lane returned and the relay after it. Every message is outstanding no longer (R345). -/
def Relay.claim (r : Relay) (hAsleep : Bool) : Lane × Relay :=
  match r.best hAsleep with
  | none => (lane [(15, 15, 1)], { r with outstanding := [] })
  | some (n, x) =>
    let lv := !isPulseSource n && x.byLevel
    (claimLane n x.cfg.prio lv x.level,
     { (r.upd n fun y => { y with pend := false, byLevel := false }) with
       stack := { source := n, prio := x.cfg.prio, levelAtClaim := lv } :: r.stack, outstanding := [] })

/-- The stack with each source's input, bottom first (ER_SNAP_H). -/
def Relay.snapshot (r : Relay) : List (StackEntry × Bool) :=
  r.stack.reverse.map fun e => (e, (r.source e.source).level)

/-- An order fault of H (R348): the first one since both bits were clear records its stack. -/
def Relay.orderFault (r : Relay) (n : Nat) : Relay :=
  let first := !r.order && !r.unclaimed
  let q := { r with faultCount := clampU 8 (r.faultCount + 1) }
  let q := if r.stack = [] then { q with unclaimed := true } else { q with order := true }
  if first then { q with badSource := n, snapDepth := r.stack.length, snap := r.snapshot } else q

/-- A completion naming a source: the relay after it, and whether it was in order. -/
def Relay.complete (r : Relay) (n : Nat) : Relay × Bool :=
  match r.stack with
  | [] => (r.orderFault n, false)
  | e :: rest => if e.source = n then ({ r with stack := rest }, true) else (r.orderFault n, false)

/-! ## The always-on part (R349, R350) -/

/-- A signal meets an enabled entry; `was` is the input before. -/
def WatchEntry.met (w : WatchEntry) (was : Bool) : Signal → Bool
  | .pulse n => w.enable && w.source == n && (w.sense == 1 || edgeMet w.sense true || edgeMet w.sense false)
  | .level n on =>
    w.enable && w.source == n && (levelMet w.sense on || (was != on && edgeMet w.sense on))

/-- SEEN bits set; a bit that rises asserts ALERT_N. -/
def Watch.see (w : Watch) (mask : Nat) : Watch :=
  let m := BitVec.ofNat 32 mask
  { w with seen := w.seen ||| m, alert := w.alert || (m &&& ~~~w.seen) != 0 }

def Signal.source : Signal → Nat
  | .pulse n => n
  | .level n _ => n

/-- The entries that a signal meets. -/
def Watch.sense (w : Watch) (was : Bool) (s : Signal) : Watch :=
  if w.senses s.source then
    w.see (listMask ((List.range 32).filter fun i => (w.entries.getD i WatchEntry.reset).met was s))
  else w

/-- Entries of a level sense match for as long as the input is at the active level. -/
def Watch.resense (w : Watch) (r : Relay) : Watch :=
  w.see (listMask ((List.range 32).filter fun i =>
    let e := w.entries.getD i WatchEntry.reset
    e.enable && e.source < 384 && w.senses e.source &&
      levelMet e.sense (r.source e.source).level))

/-- H_WAKE takes a value; its rise asserts ALERT_N. -/
def Watch.setHWake (w : Watch) (on : Bool) : Watch :=
  { w with hWake := on, alert := w.alert || (on && !w.hWake) }

/-- The level of PERST_N at its pin: high while the main part waits for its rails, too (R405). -/
def Watch.perstPin (w : Watch) : Bool := w.perstN || w.held

/-- ALERT_N is released when nothing holds it, and while PERST_N is asserted (R350, R399). An event that comes then sets its
SEEN bit and asserts nothing, then or later (DEDUCED, log 171). -/
def Watch.release (w : Watch) : Watch :=
  if (w.seen = 0 ∧ w.hWake = false) ∨ w.perstPin = false then { w with alert := false } else w

/-! ## The end of a step -/

/-- One signal reaches the relay, if its main part is out of reset, and the always-on part. The input levels of
always-sensed sources are kept in any case. -/
def State.signal (s : State) (g : Signal) : State :=
  let was := (s.relay.source g.source).level
  let r :=
    if s.watch.perstN then s.relay.signal g
    else match g with
      | .level n on => if s.watch.senses n then s.relay.upd n fun x => { x with level := on } else s.relay
      | .pulse _ => s.relay
  { s with relay := r, watch := s.watch.sense was g }

/-- Messages for the priorities newly deliverable to H (R345). -/
def State.deliver (s : State) : State :=
  let asleep := linkAsleep s.dev.host.link
  let ps := s.relay.newMessages asleep
  { s with dev := s.dev.each ps fun d p => d.msix p
           relay := { s.relay with outstanding := s.relay.outstanding ++ ps } }

/-- H_WAKE (R344, R350): set while a source waits, cleared when H is awake. -/
def State.wake (s : State) : State :=
  let asleep := linkAsleep s.dev.host.link
  { s with watch := s.watch.setHWake (if asleep then s.watch.hWake || s.relay.wakesH asleep else false) }

/-- What the Watch domain and the pins show of the state (R351, R385). -/
def State.post (s : State) : State :=
  { s with watch := { s.watch with
      postedState := if s.watch.perstN then s.dev.gs.op else .boot
      faultN := s.dev.gs.op != .fault } }

/-- The signals of the step are sensed in order. -/
def State.senseSignals (s : State) : State :=
  s.dev.signals.foldl State.signal { s with dev := { s.dev with signals := [] } }

/-- Level senses of the relay, for as long as its main part is out of reset (R339). -/
def State.senseLevels (s : State) : State := if s.watch.perstN then { s with relay := s.relay.resense } else s

/-- The relay chooses afresh (R343). -/
def State.chooseTargets (s : State) : State :=
  if s.watch.perstN then { s with relay := s.relay.choose (linkAsleep s.dev.host.link) } else s

/-- Level senses of ER_WATCH. -/
def State.watchLevels (s : State) : State := { s with watch := s.watch.resense s.relay }

/-- Deliveries to H, and H_WAKE. -/
def State.messages (s : State) : State := (if s.watch.perstN then s.deliver else s).wake

/-- Messages that were held back leave; cores are woken, and take what is theirs. -/
def State.serveRelay (s : State) : State :=
  { s with dev := s.dev.flushMsix, relay := if s.watch.perstN then s.relay.wakeCores.coreClaims else s.relay }

/-- ALERT_N is released when nothing holds it. -/
def State.releaseAlert (s : State) : State := { s with watch := s.watch.release }

/-- The end of every step: its signals are sensed in order, the relay decides afresh (R342), messages go out,
and the Watch domain sees the state. -/
def State.settle (s : State) : State :=
  s.senseSignals.senseLevels.chooseTargets.watchLevels.messages.serveRelay.releaseAlert.post

end Sys2Proof.Machine
end

