-- ==== Sys2Proof/Machine/Mailbox.lean ====
section
/-! DEFINITION. The mailbox: doorbells and cancels, the acceptance of a posted command (12 R295 to R303, R315),
the legality table (R316) and the transitions that wait for a tick (R312, R314). -/

namespace Sys2Proof.Machine

/-! ## A command as firmware copies it -/

/-- The slot and the posted words. -/
structure Cmd where
  slot : Nat
  words : List Word
  deriving DecidableEq, Repr

/-- Word i. -/
def Cmd.w (c : Cmd) (i : Nat) : Word := c.words.getD i 0

/-- Field [hi:lo] of word i. -/
def Cmd.f (c : Cmd) (i hi lo : Nat) : Nat := fld (c.w i) hi lo

/-- A signed field. -/
def Cmd.s (c : Cmd) (i hi lo : Nat) : Int := signed (hi + 1 - lo) (c.f i hi lo)

/-- One bit of word i. -/
def Cmd.b (c : Cmd) (i b : Nat) : Bool := bit (c.w i) b

def Cmd.opcode (c : Cmd) : Nat := c.f 0 11 0
def Cmd.count (c : Cmd) : Nat := c.f 0 19 12

/-- The table of R322 to R334. -/
def opcodes : List Nat :=
  range2 0x001 0x005 ++ range2 0x101 0x105 ++ range2 0x201 0x207 ++ range2 0x301 0x30B ++ range2 0x401 0x405 ++
  range2 0x501 0x504 ++ range2 0x601 0x607 ++ range2 0x701 0x707 ++ range2 0x801 0x805 ++ range2 0x901 0x903 ++
  range2 0xA01 0xA03 ++ [0xF01, 0xF02]

/-- What a command's header may hold: its opcode, the COUNTs it takes and its OPTIONS bits. `chunk` tells the
two commands of opcode 0x302 apart by COEFF. -/
structure Form where
  opcode : Nat
  counts : List Nat
  options : List Nat
  chunk : Bool
  deriving DecidableEq, Repr

/-- A command with no OPTIONS bits. -/
def form (opcode : Nat) (counts : List Nat) : Form :=
  { opcode := opcode, counts := counts, options := [], chunk := false }

/-- The mask of the fields named by (hi, lo). -/
def fieldsMask (fs : List (Nat × Nat)) : Nat :=
  fs.foldl (fun m x => m ||| ((2 ^ (x.1 + 1 - x.2) - 1) * 2 ^ x.2)) 0

/-- A posted command is of a form: its opcode, and for 0x302 its COEFF bit. -/
def Form.fits (f : Form) (c : Cmd) : Bool := c.opcode == f.opcode && (f.opcode != 0x302 || c.b 0 20 == f.chunk)

/-- Word 0 has a fault: a COUNT that the command does not take, or a reserved OPTIONS bit (R296, R5). -/
def Form.badHeader (f : Form) (c : Cmd) : Bool :=
  !decide (c.count ∈ f.counts) || !((range2 20 34).all fun i => decide (i ∈ f.options) || !c.b 0 i)

/-- The parameter words that hold a set reserved bit, by a table of the defined fields of words 1 onward. -/
def reservedFaults (c : Cmd) (layout : List (List (Nat × Nat))) : List Nat :=
  (range2 1 c.count).filter fun i =>
    match layout[i - 1]? with
    | some fs => (c.w i).toNat &&& (2 ^ 36 - 1 - fieldsMask fs) != 0
    | none => false

/-- The lowest of the words at fault. -/
def leastFault (l : List Nat) : Option Nat := l.foldl (fun m i => some (match m with | some j => min i j | none => i)) none

/-! ## Legality (R316) -/

/-- The states after BOOT in which a command is legal or taken for a tick. -/
def legalStates (opcode : Nat) (now : Bool) : List OpState :=
  let every : List OpState := [.ready, .armed, .surveying, .hold, .calibrating, .updating, .safe, .fault]
  let run : List OpState := [.ready, .armed, .surveying, .hold, .calibrating]
  if opcode ∈ [0x001, 0x002, 0x005, 0x105, 0x207, 0x30B, 0x404, 0x309, 0x805, 0x706, 0xF02, 0x502] then every
  else if opcode = 0x003 then run ++ [.safe, .fault]
  else if opcode ∈ [0x304, 0x103, 0x401, 0xA02, 0x701, 0x004, 0x301, 0x802, 0xA01, 0xA03] then [.ready]
  else if opcode ∈ [0x101, 0x102, 0x302, 0x303, 0x201, 0x202, 0x501, 0x601, 0x901] then [.ready, .surveying, .hold]
  else if opcode ∈ [0x104, 0x403] then [.ready, .hold]
  else if opcode = 0x305 then [.ready, .armed]
  else if opcode = 0x308 then [.armed, .surveying, .hold]
  else if opcode ∈ [0x306, 0x903] ∨ (opcode = 0x504 ∧ now) then [.surveying]
  else if opcode = 0x307 then [.hold]
  else if opcode ∈ [0x203, 0x206, 0x204, 0x205, 0x402, 0x405, 0x902, 0x30A, 0x703] then run
  else if opcode ∈ [0x503, 0x504, 0x602, 0x607, 0x603, 0x604, 0x605, 0x606, 0x702, 0x704, 0x705, 0x707] then
    run ++ [.safe, .fault]
  else if opcode = 0x801 then [.ready, .armed, .surveying, .hold, .safe]
  else if opcode ∈ [0x803, 0x804] then [.ready, .safe]
  else if opcode = 0xF01 then [.ready, .safe, .fault]
  else []

/-- FREEZE_TRAVERSE in mode NOW has a row of its own. -/
def Cmd.isNow (c : Cmd) : Bool := c.opcode == 0x504 && c.f 1 27 24 == 1

def Cmd.legalIn (c : Cmd) (s : OpState) : Bool := decide (s ∈ legalStates c.opcode c.isNow)

/-! ## Transitions that wait (R312, R314) -/

/-- The state that a transition leads to. -/
def Transition.target (t : Transition) : OpState :=
  match t with
  | .start => .surveying
  | .hold => .hold
  | .resume => .surveying
  | .stop => .ready
  | .arm => .armed
  | .disarm => .ready

/-- CALIBRATE is accepted and its first tick has not come (R106). -/
def Dev.calibrateWaits (d : Dev) : Bool := (d.cal.run.any fun r => !r.startUp) && d.gs.op != .calibrating

/-- The state against which firmware judges a command at acceptance: the one that the transition accepted last produces. -/
def Dev.judged (d : Dev) : OpState :=
  if d.gs.op = .updating then .updating
  else if d.calibrateWaits then .calibrating
  else match d.gs.transitions.getLast? with
    | some x => x.2.target
    | none => d.gs.op

/-- The tick of a transition accepted now: the next one that has none yet. -/
def Dev.transitionTick (d : Dev) : Nat :=
  max d.nextTick ((d.gs.transitions.getLast?.map fun x => x.1 + 1).getD 0)

/-- A transition waits for its tick. -/
def Dev.addTransition (d : Dev) (t : Transition) : Dev :=
  d.onGs fun g => { g with transitions := g.transitions ++ [(d.transitionTick, t)] }

/-! ## Exclusion (R302) -/

/-- The opcodes that exclude a command. -/
def excludedBy (c : Cmd) : List Nat :=
  if c.opcode ∈ [0x401, 0x403, 0x104, 0x103, 0x307] then [0x401, 0x403, 0x104, 0x103]
  else if c.opcode = 0x604 then [0x604]
  else if c.opcode ∈ [0x701, 0x702] ∨ (c.opcode = 0x707 ∧ c.b 1 0 = false) then [0x701, 0x702, 0x707]
  else if c.opcode ∈ [0x801, 0x802, 0x803, 0x804] then [0x801, 0x802, 0x803, 0x804]
  else if c.opcode ∈ [0xA02, 0xA03] then [0xA02, 0xA03]
  else []

/-- The slot's command is under way. -/
def Slot.busy (x : Slot) : Bool := x.st == .accepted || x.st == .running

/-- Another command of the same group is under way. -/
def Dev.excluded (d : Dev) (c : Cmd) : Bool :=
  d.host.slots.zipIdx.any fun x => x.2 != c.slot && x.1.busy && decide (fld (x.1.cmd.getD 0 0) 11 0 ∈ excludedBy c)

/-! ## Acceptance (R297) -/

/-- Firmware serves commands: not in BOOT, nor without the COMPASS partition. -/
def Dev.serves (d : Dev) : Bool := d.gs.op != .boot && d.partUp partCompass

/-- The command posted in a slot. -/
def Dev.cmdOf (d : Dev) (slot : Nat) : Cmd := { slot := slot, words := (d.slot slot).cmd }

/-- The head of the queue leaves it and is ACCEPTED. -/
def Dev.take (d : Dev) (slot : Nat) : Dev :=
  (d.onHost fun h => { h with queue := h.queue.drop 1 }).updSlot slot fun x => { x with st := .accepted }

/-- The opcode of the command in a slot is in no table. -/
def Dev.unknown (d : Dev) (slot : Nat) : Bool := !decide ((d.cmdOf slot).opcode ∈ opcodes)

/-- Up to n posted commands at the head of the queue whose opcode is in no table end FAILED with E_OPCODE. -/
def Dev.serveSome (d : Dev) : Nat → Dev
  | 0 => d
  | n + 1 =>
    match d.host.queue with
    | [] => d
    | s :: _ =>
      if d.serves && d.unknown s then ((d.take s).reply s (.fail (failAt eOpcode 0))).serveSome n
      else d

/-- All of them (R297). -/
def Dev.serveUnknown (d : Dev) : Dev := d.serveSome d.host.queue.length

/-- The general checks of acceptance, in order: header, parameters, state, exclusion. -/
def Dev.refusal (d : Dev) (f : Form) (c : Cmd) (faults : List Nat) : Option Fail :=
  if f.badHeader c then some (failAt eParam 0)
  else match leastFault faults with
    | some i => some (failAt eParam i)
    | none =>
      if !c.legalIn d.judged then some (failPlain eState)
      else if d.excluded c then some (failPlain eBusy)
      else none

/-- The command in this slot is the next that firmware accepts, and it is of this form. -/
def Dev.next (d : Dev) (f : Form) (slot : Nat) : Bool :=
  d.serves && d.host.queue.head? == some slot && f.fits (d.cmdOf slot)

/-- A mailbox command: its header, the defined fields of its parameter words, the words at fault, and what it does and
answers once the general checks are passed. `onFault` is what a refusal for its words does: nothing, but for chunks (R326);
`faultResp` is what it answers behind the fault word: nothing, but for ATLAS_READ (R330). -/
structure MbCommand where
  form : Form
  layout : Cmd → List (List (Nat × Nat))
  faults : Cmd → List Nat
  body : State → Cmd → State × Reply
  onFault : Dev → Cmd → Dev := fun d _ => d
  faultResp : Dev → List Word := fun _ => []

def onState (f : Form) (layout : Cmd → List (List (Nat × Nat))) (faults : Cmd → List Nat)
    (body : State → Cmd → State × Reply) : MbCommand :=
  { form := f, layout := layout, faults := faults, body := body }

/-- A command whose body works on the device alone. -/
def onDev (f : Form) (layout : Cmd → List (List (Nat × Nat))) (faults : Cmd → List Nat)
    (body : Dev → Cmd → Dev × Reply) : MbCommand :=
  onState f layout faults fun t c => let r := body t.dev c; ({ t with dev := r.1 }, r.2)

/-- The words of a posted command that are at fault. -/
def MbCommand.faultsOf (m : MbCommand) (c : Cmd) : List Nat := reservedFaults c (m.layout c) ++ m.faults c

/-- Firmware accepts the command of a slot: the general checks, then the command's own body. A command that is
not the next to be accepted stays POSTED (R297). -/
def State.accept (s : State) (slot : SlotId) (m : MbCommand) : State :=
  if s.dev.next m.form slot then
    let c := s.dev.cmdOf slot
    let s1 := { s with dev := s.dev.take slot }
    let r :=
      match s1.dev.refusal m.form c (m.faultsOf c) with
      | some e =>
        if e.code = eParam then ({ s1 with dev := m.onFault s1.dev c }, Reply.fail { e with resp := m.faultResp s1.dev })
        else (s1, Reply.fail e)
      | none => m.body s1 c
    { r.1 with dev := (r.1.dev.reply slot r.2).serveUnknown }
  else s

/-- The outcome of every meaning: the step's signals are sensed. -/
def done (s : State) : Host.Outcome State Fault Refusal := .next s.settle

/-- The outcome of a meaning that works on the device alone. -/
def doneDev (s : State) (d : Dev) : Host.Outcome State Fault Refusal := done { s with dev := d }

/-! ## Deferred effects (R18, R297) -/

/-- An effect waits for a tick. -/
def Dev.defer (d : Dev) (tick opcode : Nat) (e : Effect) : Dev :=
  d.onFw fun w => { w with deferred := w.deferred ++ [{ tick := tick, opcode := opcode, effect := e }] }

/-- The command is taken, and its effect applies at the next tick. -/
def Dev.deferNext (d : Dev) (c : Cmd) (e : Effect) (resp : List Word) : Dev × Reply :=
  (d.defer d.nextTick c.opcode e, .deferred d.nextTick resp)

/-! ## Doorbell and cancel (R295, R300, R301) -/

/-- MB_DOORBELL. -/
def Dev.doorbell (d : Dev) (slot : Nat) (tag : BitVec 16) : Dev :=
  let x := d.slot slot
  if x.st = .free ∨ x.st = .done ∨ x.st = .failed then
    let d1 := d.updSlot slot fun y =>
      { y with tag := tag, st := .posted, error := 0, progress := 0, partialWords := 0, resp := List.replicate 64 0 }
    ((d1.onHost fun h => { h with queue := h.queue ++ [slot] }).pulse (318 + slot)).serveUnknown
  else d

/-- A POSTED command is cancelled: it leaves the queue. Response words of a failed host load stay as they are (R300). -/
def Dev.cancelPosted (d : Dev) (slot : Nat) : Dev :=
  let x := d.slot slot
  ((d.onHost fun h => { h with queue := h.queue.filter (· != slot) }).finish slot true eCancelled
    (if x.partialWords = 0 then (failPlain eCancelled).words else x.resp.take x.partialWords)).serveUnknown

/-! ## Every field written by commands: blocks of R321 -/

/-- A word with every bit defined. -/
def fullWord : List (Nat × Nat) := [(35, 0)]

/-- The three words of a channel mask. -/
def maskWords : List (List (Nat × Nat)) := [[(31, 0)], [(31, 0)], [(31, 0)]]

/-- Frame40. -/
def frame40Words : List (List (Nat × Nat)) := [[(3, 0)], fullWord]

/-- Addr64. -/
def addr64Words : List (List (Nat × Nat)) := [[(27, 0)], fullWord]

/-- The indices whose condition holds. -/
def faultsOf (l : List (Nat × Bool)) : List Nat := (l.filter fun x => x.2).map fun x => x.1

end Sys2Proof.Machine
end

