-- ==== Sys2Proof/Machine/Items.lean ====
section
/-! DEFINITION. Survey items as definitions: kinds, fields and their checks, reading lengths, limits, engine
costs and the frame budget (06 R144 to R151, 07 R181 to R185, 08 R199 to R202). -/

namespace Sys2Proof.Machine

/-! ## Kinds (R146, R199) -/

def kFreq : Nat := 0x01
def kPeriod : Nat := 0x02
def kTi : Nat := 0x03
def kPhase : Nat := 0x04
def kPwidth : Nat := 0x05
def kDuty : Nat := 0x06
def kRisefall : Nat := 0x07
def kCount : Nat := 0x08
def kRatio : Nat := 0x09
def kSkew : Nat := 0x0A
def kTie : Nat := 0x0B
def kPjitter : Nat := 0x0C
def kC2c : Nat := 0x0D
def kNperiod : Nat := 0x0E
def kSsc : Nat := 0x0F
def kHistogram : Nat := 0x10
def kSpectrum : Nat := 0x20
def kAdev : Nat := 0x21
def kMdev : Nat := 0x22
def kTdev : Nat := 0x23
def kFiltered : Nat := 0x24
def kDecomp : Nat := 0x25
def kMasktest : Nat := 0x26

/-- The kinds of R146 and R199. -/
def kindOk (k : Nat) : Bool := (0x01 ≤ k && k ≤ 0x10) || (0x20 ≤ k && k ≤ 0x26)

def isAnalysis (k : Nat) : Bool := 0x20 ≤ k && k ≤ 0x26

/-- The kinds whose senses are fixed (R145). -/
def fixesSense (k : Nat) : Bool := k == kPwidth || k == kDuty || k == kRisefall

/-- The kinds with pairing. -/
def pairs (k : Nat) : Bool := k == kTi || k == kPhase || k == kSkew || fixesSense k

/-- The kinds with a coincidence window. -/
def hasCoinc (k : Nat) : Bool := k == kTi || fixesSense k

/-- The users of the NCO (R147, R199). -/
def Item.usesNco (i : Item) : Bool :=
  i.kind == kTie || i.kind == kSsc || (i.kind == kHistogram && !i.histPeriod) || isAnalysis i.kind

/-- The jitter items (R182, R199). -/
def Item.isJitter (i : Item) : Bool :=
  (decide (i.kind ∈ [kTie, kPjitter, kC2c, kNperiod, kSsc, kHistogram])) || isAnalysis i.kind

/-- The items whose channel runs a TIE stream (R183). -/
def Item.usesStream (i : Item) : Bool := i.kind == kSsc || isAnalysis i.kind

/-- Analyses that name a source stream. -/
def hasSrc (k : Nat) : Bool := (decide (k ∈ [kSpectrum, kAdev, kMdev, kTdev, kDecomp]))

def isDeviation (k : Nat) : Bool := k == kAdev || k == kMdev || k == kTdev

/-- A role's channel field that is not in use. -/
def unusedCh : Nat := 127

/-- Role i of a kind: `some true` required, `some false` optional, `none` not used. R146 gives SKEW the further roles B to D
and does not say which may be left out: C and D may, in any combination (DESIGN CHOICE, log 184). -/
def roleOf (k i : Nat) : Option Bool :=
  if i = 0 then some true
  else if i = 1 then (if k ∈ [kTi, kPhase, kRatio, kSkew, kRisefall] then some true else none)
  else if k = kSkew then some false else none

/-! ## DEFINE_ITEM's fields (R325) -/

/-- The item that the words of DEFINE_ITEM define. -/
def Cmd.item (c : Cmd) : Item :=
  { kind := c.f 1 25 18, gateMode := c.f 1 17 16, armMode := c.f 1 15 14, continuous := c.b 1 13,
    noPartial := c.b 1 12, autoLevel := c.b 1 11, gateTrig := c.f 1 10 8, armTrig := c.f 1 7 5,
    ch := [c.f 2 35 29, c.f 2 28 22, c.f 2 21 15, c.f 2 14 8],
    sense := [c.f 2 7 6, c.f 2 5 4, c.f 2 3 2, c.f 2 1 0],
    gateLen := (c.w 3).toNat + 1, armFrame := nat40 (c.w 4) (c.w 5), pairing := c.f 6 35 34,
    coinc := c.f 6 33 26, neg := c.b 6 25, track := c.b 6 24, histPeriod := c.b 6 23, binExp := c.f 6 22 19,
    nper := c.f 6 18 10, sscM := c.f 7 15 0 + 1, maxSpan := nat40 (c.w 8) (c.w 9),
    pNom := nat72 (c.w 10) (c.w 11), centre := signed 72 (nat72 (c.w 12) (c.w 13)), srcItem := c.f 14 35 26,
    srcFiltered := c.b 14 25, fftN := c.f 14 24 21, window := c.f 14 20 19, overlap := c.b 14 18,
    maxHold := c.b 14 17, tauExp0 := c.f 14 16 12, tauCount := c.f 14 11 7, loop := c.b 14 6,
    outTracked := c.b 14 5, saturateOk := c.b 14 4, binLo := c.f 15 35 18, binHi := c.f 15 17 0,
    kp := c.s 16 35 0, ki := c.s 17 35 0, coefSet := c.f 18 35 30, inMax := c.f 18 27 0 + 1,
    lineK := c.f 19 35 25, berExp := c.f 19 24 20, skip := c.f 20 20 0, mask := c.f 21 35 30,
    route := c.f 21 29 26, trigCount := c.f 21 25 18 }

/-- The defined fields of words 1 to 21. -/
def itemLayout : List (List (Nat × Nat)) :=
  [[(35, 5)], fullWord, fullWord, [(3, 0)], fullWord, [(35, 10)], [(15, 0)], [(3, 0)], fullWord, fullWord, fullWord,
   fullWord, fullWord, [(35, 4)], fullWord, fullWord, fullWord, [(35, 30), (27, 0)], [(35, 20)], [(20, 0)], [(35, 18)]]

/-- Roles with a channel that the kind does not allow there (R145, R166). -/
def Item.badChannels (i : Item) : Bool :=
  (List.range 4).any fun r =>
    let c := i.ch.getD r unusedCh
    if i.kind = kRisefall ∧ r = 1 then c != partnerOf (i.ch.getD 0 0)
    else match roleOf i.kind r with
      | some true => !(c < 96)
      | some false => !(c < 96) && c != unusedCh
      | none => c != unusedCh

/-- A field used outside its range, or set although the kind or mode does not use it: the words at fault
(R145, R200), the lowest of those that a condition joins (R298). The sense of a role that the kind does not have may hold
anything but the reserved code: R145 calls the field used by all kinds but three (DESIGN CHOICE, log 136). -/
def Item.faults (i : Item) (c : Cmd) : List Nat :=
  let k := i.kind
  let nco := i.usesNco
  let unused := fun (w : Nat) (used : Bool) (v : Nat) => (w, !used && v != 0)
  faultsOf [
    (1, !kindOk k), (1, i.gateMode == 3), (1, i.armMode == 3), (1, i.gateMode == 2 && i.armMode != 0),
    unused 1 (i.gateMode == 2) i.gateTrig, unused 1 (i.armMode == 2) i.armTrig,
    (2, i.badChannels), (2, decide (3 ∈ i.sense)), (2, fixesSense k && i.sense.any (· != 0)),
    unused 3 (i.gateMode != 2) (c.w 3).toNat, (3, i.gateMode == 0 && decide (2 ^ 32 < i.gateLen)),
    unused 4 (i.armMode == 1) i.armFrame,
    unused 6 (k == kTi) i.pairing, (6, i.pairing == 3), unused 6 (hasCoinc k) i.coinc, (6, decide (128 < i.coinc)),
    unused 6 (k == kPwidth || k == kDuty) (b2n i.neg), unused 6 nco (b2n i.track),
    unused 6 (k == kHistogram) (b2n i.histPeriod), unused 6 (k == kHistogram) i.binExp, (6, decide (12 < i.binExp)),
    unused 6 (k == kNperiod) i.nper, (6, k == kNperiod && !(2 ≤ i.nper && i.nper ≤ 256)),
    unused 7 (k == kSsc) (c.w 7).toNat, (7, k == kSsc && decide (i.sscM < 16)),
    unused 8 (pairs k) i.maxSpan, (8, pairs k && i.maxSpan == 0),
    unused 10 nco i.pNom, (10, nco && i.pNom == 0),
    unused 12 (k == kHistogram) (nat72 (c.w 12) (c.w 13)),
    unused 14 (hasSrc k && i.srcFiltered || k == kMasktest) i.srcItem, unused 14 (hasSrc k) (b2n i.srcFiltered),
    unused 14 (k == kSpectrum || k == kDecomp) i.fftN,
    (14, (k == kSpectrum || k == kDecomp) && !(12 ≤ i.fftN && i.fftN ≤ 16)),
    unused 14 (k == kSpectrum) i.window, unused 14 (k == kSpectrum || k == kDecomp) (b2n i.overlap),
    unused 14 (k == kSpectrum) (b2n i.maxHold), unused 14 (isDeviation k) i.tauExp0, unused 14 (isDeviation k) i.tauCount,
    (14, isDeviation k && !(i.tauExp0 ≤ 20 && 1 ≤ i.tauCount && i.tauCount + i.tauExp0 ≤ 21)),
    unused 14 (k == kFiltered) (b2n i.loop), unused 14 (k == kFiltered) (b2n i.outTracked),
    unused 14 (k == kFiltered) (b2n i.saturateOk),
    unused 15 (k == kSpectrum) (c.w 15).toNat,
    (15, k == kSpectrum && !(i.binLo ≤ i.binHi)), (14, k == kSpectrum && !(i.binHi ≤ 2 ^ i.fftN / 2)),
    unused 16 (k == kFiltered && i.loop) (c.w 16).toNat, unused 17 (k == kFiltered && i.loop) (c.w 17).toNat,
    (16, k == kFiltered && i.loop && !(0 < i.kp)), (17, k == kFiltered && i.loop && !(0 < i.ki)),
    (16, k == kFiltered && i.loop && !(2 * i.kp + i.ki < 4 * 2 ^ 34)),
    unused 18 (k == kFiltered) (c.w 18).toNat, (18, k == kFiltered && 31 < i.coefSet && i.coefSet != 63),
    (18, decide (2 ^ 27 < i.inMax)),
    unused 19 (k == kDecomp) (c.w 19).toNat,
    (19, k == kDecomp && !(2 ≤ i.lineK && i.lineK ≤ 1024 && 6 ≤ i.berExp && i.berExp ≤ 16)),
    unused 20 (k == kFiltered) i.skip, (20, decide (2 ^ 20 < i.skip)),
    unused 21 (k == kMasktest) (c.w 21).toNat,
    (21, k == kMasktest && (!(i.route < 8) && i.route != 15 || i.trigCount == 0))]

/-! ## Reading lengths (R146, R199, R306) -/

/-- Roles bound by a SKEW item. -/
def Item.roles (i : Item) : Nat := (i.ch.filter (· < 96)).length

/-- Value words of a reading. -/
def Item.valueWords (i : Item) : Nat :=
  let k := i.kind
  if k = kFreq ∨ k = kRatio ∨ k = kPjitter ∨ k = kC2c then 6
  else if k = kPeriod ∨ k = kPwidth ∨ k = kTie ∨ k = kNperiod then 10
  else if k = kTi ∨ k = kRisefall then 12
  else if k = kPhase then 7
  else if k = kDuty then 5
  else if k = kCount then 4
  else if k = kSkew then 4 * (i.roles - 1) + 2
  else if k = kSsc then 11
  else if k = kHistogram then 8198
  else if k = kSpectrum then 7 + (i.binHi - i.binLo + 1)
  else if isDeviation k then 4 + 3 * i.tauCount
  else if k = kFiltered then 8
  else if k = kDecomp then 60
  else 9

def Item.words (i : Item) : Nat := 3 + i.valueWords

/-! ## The committed configuration (R16) -/

/-- The definitions in force. -/
def Survey.inForce (s : Survey) : List ItemRun := s.items.filter fun r => r.until_.isNone

/-- Items after one more deferred effect. -/
def itemsAfter (l : List (Nat × Item)) : Effect → List (Nat × Item)
  | .item n i => (l.filter fun x => x.1 < n) ++ [(n, i)] ++ l.filter fun x => n < x.1
  | .deleteItem n => l.filter fun x => x.1 != n
  | _ => l

/-- The items with every accepted change, in ascending number. -/
def Dev.committedItems (d : Dev) : List (Nat × Item) :=
  d.fw.deferred.foldl (fun l e => itemsAfter l e.effect) (d.survey.inForce.map fun r => (r.num, r.item))

/-- The settings of one channel after one more deferred effect. -/
def cfgAfter (c : Nat) (x : ChanCfg) : Effect → ChanCfg
  | .channel lo hi y =>
    if lo ≤ c ∧ c ≤ hi then { y with thrA := x.thrA, hysA := x.hysA, thrB := x.thrB, hysB := x.hysB } else x
  | .levels lo hi setA setB ta ha tb hb =>
    if lo ≤ c ∧ c ≤ hi then
      { x with thrA := if setA then ta else x.thrA, hysA := if setA then ha else x.hysA,
               thrB := if setB then tb else x.thrB, hysB := if setB then hb else x.hysB }
    else x
  | .thrA n t h _ => if n = c then { x with thrA := t, hysA := h.getD x.hysA } else x
  | .loadSettings _ s skip => if bankOf c ∈ skip then x else s.chans.getD c x
  | _ => x

/-- A channel's settings with every accepted change (R41). -/
def Dev.committedCfg (d : Dev) (c : Nat) : ChanCfg :=
  d.fw.deferred.foldl (fun x e => cfgAfter c x e.effect) (d.chan c).cfg

/-- A channel's settings as they will be at the next tick: the accepted changes that apply at or before it (R41, R42). -/
def Dev.nextCfg (d : Dev) (c : Nat) : ChanCfg :=
  (d.fw.deferred.filter fun e => e.tick ≤ d.nextTick).foldl (fun x e => cfgAfter c x e.effect) (d.chan c).cfg

/-- Reading words of all the items (R306). -/
def totalWords (l : List (Nat × Item)) : Nat := sumN (l.map fun x => x.2.words)

/-! ## Needs of an item on its channels (R151, R181, R182) -/

/-- Kinds that describe single cycles and need D = 1. -/
def needsD1 (k : Nat) : Bool := (decide (k ∈ [kPjitter, kC2c, kNperiod, kDuty, kPwidth]))

/-- The channel does not stamp the sense code wanted (0 RISE, 1 FALL, 2 BOTH). -/
def senseMissing (e : EdgeSel) (sense : Nat) : Bool :=
  match e with
  | .both => false
  | .rise => sense != 0
  | .fall => sense != 1

/-- The sense that a role uses. -/
def Item.roleSense (i : Item) (r : Nat) : Nat := if fixesSense i.kind then 2 else i.sense.getD r 0

/-- What the item needs of its channels' edge selection and decimation, and whether it goes without (R151): D = 1 on role A's
channel, both senses there, and on each role's channel the sense that the role uses. -/
def Item.unmet (i : Item) (cfg : Nat → ChanCfg) : List Bool :=
  let a := cfg (i.ch.getD 0 0)
  [needsD1 i.kind && a.decim != 1, (i.kind == kDuty || i.kind == kPwidth) && a.edgeSel != .both] ++
    (List.range 4).map fun r =>
      let c := i.ch.getD r unusedCh
      decide (c < 96) && senseMissing (cfg c).edgeSel (i.roleSense r)

/-- The item conflicts with its channels' edge selection or decimation (R151). -/
def Item.conflicts (i : Item) (cfg : Nat → ChanCfg) : Bool := (i.unmet cfg).any id

/-- The fits of one sense that need set B: channel and sense (R181). -/
def Item.fits (i : Item) : List (Nat × Nat) :=
  let a := (i.ch.getD 0 0, i.sense.getD 0 0)
  let b := (i.ch.getD 1 0, i.sense.getD 1 0)
  let l :=
    if i.kind = kDuty then [(i.ch.getD 0 0, b2n i.neg)]
    else if i.kind = kRatio then [a, b]
    else if i.kind ∈ [kFreq, kPeriod, kPhase] then [a]
    else []
  l.filter fun x => x.2 != 2

/-- The first entry whose key appeared before with another value. -/
def firstClash : List (Nat × Nat × Nat) → List (Nat × Nat) → Option Nat
  | [], _ => none
  | (n, k, v) :: r, seen =>
    match seen.lookup k with
    | some w => if w = v then firstClash r seen else some n
    | none => firstClash r ((k, v) :: seen)

/-- The first item that needs the second sense of set B on a channel that stamps both (R181). -/
def setBClash (items : List (Nat × Item)) (cfg : Nat → ChanCfg) : Option Nat :=
  firstClash (items.flatMap fun x =>
    (x.2.fits.filter fun f => (cfg f.1).edgeSel == .both).map fun f => (x.1, f.1, f.2)) []

/-- The first jitter item whose sense differs from its channel's (R182). -/
def jitterClash (items : List (Nat × Item)) : Option Nat :=
  firstClash ((items.filter fun x => x.2.isJitter).map fun x => (x.1, x.2.ch.getD 0 0, x.2.sense.getD 0 0)) []

/-- SENSE_B of a channel for a run: 0 none, 1 RISE, 2 FALL (R181). -/
def senseBOf (items : List (Nat × Item)) (cfg : Nat → ChanCfg) (c : Nat) : Nat :=
  if (cfg c).edgeSel != .both then 0
  else match (items.flatMap fun x => x.2.fits).find? fun f => f.1 == c with
    | some f => f.2 + 1
    | none => 1

/-! ## Limits (R147, R201) -/

/-- Some limit on units would be exceeded if item i joined the others. -/
def limitExceeded (others : List Item) (i : Item) : Bool :=
  let a := i.ch.getD 0 0
  let same := others.filter fun x => x.ch.getD 0 0 == a
  let n := fun (p : Nat → Bool) => (same.filter fun x => p x.kind).length
  let excess := fun (p : Nat → Bool) (m : Nat) => p i.kind && m ≤ n p
  excess pairs 4 || excess (· == kHistogram) 1 || excess (· == kNperiod) 1 ||
    (i.usesNco && same.any fun x => x.usesNco && (x.track != i.track || x.pNom != i.pNom)) ||
    excess (fun k => k == kSpectrum || k == kDecomp) 2 || excess isDeviation 4 || excess (· == kFiltered) 2 ||
    (i.kind == kMasktest && (64 ≤ (others.filter fun x => x.kind == kMasktest).length ||
      4 ≤ (others.filter fun x => x.kind == kMasktest && x.srcItem == i.srcItem).length))

/-- References to an item that does not exist or is of the wrong kind or channel (R200). -/
def badReference (items : List (Nat × Item)) (i : Item) : Bool :=
  let ok := fun (k : Nat) => items.any fun x => x.1 == i.srcItem && x.2.kind == k
  (hasSrc i.kind && i.srcFiltered && !ok kFiltered) || (i.kind == kMasktest && !ok kSpectrum)

/-- The item referred to has another role-A channel. -/
def otherChannel (items : List (Nat × Item)) (i : Item) : Bool :=
  ((hasSrc i.kind && i.srcFiltered) || i.kind == kMasktest) &&
    items.any fun x => x.1 == i.srcItem && x.2.ch.getD 0 0 != i.ch.getD 0 0

/-- The guard check of a coefficient set for an IN_MAX (R205). -/
def guardOk (s : CoefSet) (inMax : Nat) : Bool :=
  sumN (s.taps.map Int.natAbs) * 2 ^ s.shift * (inMax * 2 ^ 8) ≤ 2 ^ 79 - 1

/-- Words of sample history in the capture store (R201). -/
def Item.historyWords (i : Item) : Nat :=
  if isDeviation i.kind then 3 * 2 ^ (i.tauExp0 + i.tauCount - 1) else 0

/-! ## Engine costs and the frame budget (R183 to R185, R202) -/

/-- The least q with 1.024e13 / P_NOM ≤ 40e6 × 2^q, P_NOM in 2^-24 gr (R183). -/
def streamExp (pNom : Nat) : Nat → Nat → Nat
  | 0, q => q
  | f + 1, q => if 256000 * 2 ^ 24 ≤ 2 ^ q * pNom then q else streamExp pNom f (q + 1)

/-- r of R183. -/
def Item.r (i : Item) : Nat := 2 ^ streamExp i.pNom 64 0

/-- S_b of R202. -/
def Item.sb (i : Item) (k : Nat) : Nat := ceilDiv (101 * (2 ^ k * 4096 * 2 ^ 24 / (i.r * i.pNom))) 100

/-- c_N of R202. -/
def costN (fftN : Nat) : Nat := if fftN = 12 then 16 else if fftN = 13 then 18 else if fftN = 14 then 19 else if fftN = 15 then 20 else 21

/-- The charge for running readings. -/
def Item.runningCost (i : Item) : Nat := if !i.noPartial && (i.gateMode != 0 || 1 < i.gateLen) then 32 else 0

/-- Cycles per frame of an item's work at k, with the taps of its set and the segments of its mask. Where the windows of SSC
at P_NOM do not come out whole in a frame, R184 does not say how many are charged: the number rounded up (DESIGN CHOICE,
log 167). -/
def Item.cycles (i : Item) (k taps segs : Nat) : Nat :=
  let kd := i.kind
  let v := if i.overlap then 2 else 1
  i.runningCost +
    (if kd ∈ [kFreq, kPeriod, kCount, kRatio] then 192
     else if kd ∈ [kTi, kPhase, kPwidth, kDuty, kRisefall] then 224
     else if kd = kSkew then 160 + 64 * i.roles
     else if kd ∈ [kTie, kPjitter, kC2c, kNperiod] then 288
     else if kd = kSsc then 256 + 32 * ceilDiv (2 ^ k * 4096 * 2 ^ 24) (i.pNom * i.sscM)
     else if kd = kHistogram then 4352
     else if kd = kSpectrum then 512 + i.sb k * costN i.fftN * v
     else if kd = kDecomp then 512 + i.sb k * (costN i.fftN + 2) * v
     else if kd = kMasktest then 256 + ceilDiv (i.sb k * v) 4 + 16 * segs
     else if kd = kAdev then 512 + i.sb k * i.tauCount
     else if kd = kMdev ∨ kd = kTdev then 512 + 2 * i.sb k * i.tauCount
     else 256 + i.sb k * (3 + ceilDiv taps 2))

/-- The version of a set or mask in force in frame f. -/
def versionAt {α : Type} (l : List (Nat × α)) (f : Nat) : Option α := (l.find? fun x => x.1 ≤ f).map fun x => x.2

/-- Taps of a set and segments of a mask with every accepted change. -/
def Dev.committedTaps (d : Dev) (set : Nat) : CoefSet :=
  d.fw.deferred.foldl (fun x e => match e.effect with
    | .coefSet n s => if n = set then s else x
    | _ => x) (((d.survey.coefSets.getD set []).head?.map fun x => x.2).getD CoefSet.empty)

def Dev.committedMask (d : Dev) (mask : Nat) : List Segment :=
  d.fw.deferred.foldl (fun x e => match e.effect with
    | .mask n s => if n = mask then s else x
    | _ => x) (((d.survey.masks.getD mask []).head?.map fun x => x.2).getD [])

/-- Cycles of an item under the committed configuration. A MASKTEST item tests at its SPECTRUM item's overlap. -/
def Dev.itemCycles (d : Dev) (items : List (Nat × Item)) (i : Item) (k : Nat) : Nat :=
  let taps := if i.coefSet < 32 then (d.committedTaps i.coefSet).taps.length else 0
  let j := if i.kind = kMasktest then
      { i with overlap := ((items.find? fun x => x.1 == i.srcItem).map fun x => x.2.overlap).getD false }
    else i
  j.cycles k taps (if i.kind = kMasktest then (d.committedMask i.mask).length else 0)

/-- Group g takes work: it is neither in reset nor powered down. -/
def Dev.groupUp (d : Dev) (g : Nat) : Bool := d.partUp (partSurvey g)

/-- The group of the work of channel c: the first from c mod 31 up that takes work (R185). -/
def Dev.groupOf (d : Dev) (c : Nat) : Option Nat :=
  ((List.range 31).map fun j => (c % 31 + j) % 31).find? fun g => d.groupUp g

/-- By how much a spread takes the frequency below and above the nominal one, in 0.01 % (R133). -/
def Spread.below (s : Spread) : Nat := if s.mode = 0 then 0 else s.depth

def Spread.above (s : Spread) : Nat := if s.mode = 2 then s.depth else 0

/-- The coarse count of the boundary j of a modulation that begins at `start`: RATE is in 0.1 kHz. -/
def Spread.boundary (s : Spread) (start j : Nat) : Nat := start + ceilDiv (j * 25000000) s.rate

/-- The modulation that the ramp of a change follows, and where the ramp ends (R134). -/
def Pll.rampRate (p : Pll) : Spread := if p.spread.mode = 0 then p.spreadBefore else p.spread

def Pll.rampEnd (p : Pll) : Nat :=
  if p.spread.mode = 0 ∧ p.spreadBefore.mode = 0 then p.rampFrom else p.rampRate.boundary p.rampFrom 1

/-- A change of the setting at coarse count `now` (R134): the depth ramps from the next boundary of the modulation in force,
or from now where none runs. A change that comes before a ramp has begun takes its place; one that comes during a ramp
begins as it ends. -/
def Pll.setSpread (p : Pll) (now : Nat) (s : Spread) : Pll :=
  if now < p.rampFrom then { p with spread := s }
  else
    let from_ :=
      if now < p.rampEnd then p.rampEnd
      else if p.spread.mode = 0 then now
      else p.spread.boundary p.rampFrom (ceilDiv ((now - p.rampFrom) * p.spread.rate) 25000000)
    { p with spread := s, spreadBefore := p.spread, rampFrom := from_ }

/-- The deviations in force at a coarse count, in 0.01 % over 2^20: below and above the nominal frequency. The depth ramps
linearly over one period. -/
def Pll.deviation (p : Pll) (now : Nat) : Nat × Nat :=
  let len := p.rampEnd - p.rampFrom
  let done := min len (now - p.rampFrom)
  let mix := fun (a b : Nat) => if len = 0 then b * 2 ^ 20 else (a * (len - done) + b * done) * 2 ^ 20 / len
  (mix p.spreadBefore.below p.spread.below, mix p.spreadBefore.above p.spread.above)

/-- Spread is applied at a coarse count, or ramps off. -/
def Pll.spreading (p : Pll) (now : Nat) : Bool := p.spread.mode != 0 || (p.spreadBefore.mode != 0 && decide (now < p.rampEnd))

/-- Depth of the Engine's down-deviation in 0.01 % (R134), under every accepted change (R16): a LOAD_SETTINGS that waits
brings the Engine's spread of its bank. A deviation that still ramps off counts. -/
def Dev.engineDepth (d : Dev) : Nat :=
  let p := d.tb.engine
  let now := if d.tb.now < p.rampEnd then max p.spreadBefore.below p.spread.below else p.spread.below
  d.fw.deferred.foldl (fun n e => match e.effect with
    | .loadSettings _ x _ => match x.spread.head? with
      | some s => s.below
      | none => n
    | _ => n) now

/-- C_g at k for a depth (R185). -/
def capacity (k depth : Nat) : Nat := 4 * (64 * 2 ^ k * (10000 - depth) / 1000000)

/-- The group of the work of channel c: that of the run's schedule, outside runs that which START would give. -/
def Dev.placedOn (d : Dev) (c : Nat) : Option Nat :=
  match d.judged with
  | .surveying => d.survey.placement.getD (c % 31) none
  | .hold => d.survey.placement.getD (c % 31) none
  | _ => d.groupOf c

/-- The load of a group in permille. -/
def Dev.groupLoad (d : Dev) (items : List (Nat × Item)) (k depth g : Nat) : Nat :=
  let mine := items.filter fun x => d.placedOn (x.2.ch.getD 0 0) == some g
  if mine = [] then 0
  else ceilDiv (1000 * (2048 + sumN (mine.map fun x => d.itemCycles items x.2 k))) (capacity k depth)

/-- The loads of the 31 groups, each the larger at the ks given. -/
def Dev.loads (d : Dev) (items : List (Nat × Item)) (ks : List Nat) (depth : Nat) : List Nat :=
  (List.range 31).map fun g => maxN (ks.map fun k => d.groupLoad items k depth g)

/-- The ks at which the budget of a schedule that starts at `tick` is computed (R16): the one in force then, and
one that comes later. At most one change of k is pending, be it of SET_GRATICULE or of LOAD_SETTINGS (R176). -/
def Dev.budgetKs (d : Dev) (tick : Nat) : List Nat :=
  match d.tb.pendingK with
  | none => [d.tb.k]
  | some p => if p.tick ≤ tick then [p.k] else [d.tb.k, p.k]

/-- Load of the configuration at a tick. -/
def Dev.load (d : Dev) (items : List (Nat × Item)) (tick : Nat) : Nat :=
  maxN (d.loads items (d.budgetKs tick) d.engineDepth)

end Sys2Proof.Machine
end

