-- ==== Sys2Proof/Machine/FrontEnd.lean ====
section
/-! DEFINITION. The front end: crossings of comparators A and B, settling, edge selection, the prescaler,
runt qualification and the edge sorter (02 R36 to R47, 03 R62, 06 R148, R149). -/

namespace Sys2Proof.Machine

/-! ## Frame records -/

/-- The record of a channel for a frame that opens, with the conditions that hold at its tick. -/
def FrameRec.opening (frame : Nat) (x : Channel) (bankUp : Bool) : FrameRec :=
  { frame := frame, stamps := [], mode := x.mode, lostFifo := 0, lostCheck := 0, runtRej := 0,
    runtKept := 0, disagree := 0, lineStar := List.replicate 5 0, quadEdges := 0, stampCheck := 0,
    sorted := 0, unsettledA := !x.a.settled, unsettledB := !x.b.settled, settledA := x.a.settled,
    settledB := x.b.settled, switched := x.switch != .pin, bankDown := !bankUp, saturated := false,
    calSlew := false, offPin := [], cfg := x.cfg, thrA := x.a.thr, hysA := x.a.hys, thrB := x.b.thr,
    settledAtEnd := false, temp := 0, ncoStep := 0, closed := false, digest := [], jitter := [], hist := [] }

/-- The channel's record of a frame, empty where it keeps none. -/
def Channel.record (x : Channel) (frame : Nat) : FrameRec :=
  (x.frames.find? fun r => r.frame == frame).getD (FrameRec.opening frame x true)

/-- The channel's record of a frame changed; none is made. -/
def Channel.updRec (x : Channel) (frame : Nat) (f : FrameRec → FrameRec) : Channel :=
  { x with frames := x.frames.map fun r => if r.frame == frame then f r else r }

/-- The record of frame f after settings changed at the tick that opened it: the conditions are those of the channel
as it stands. -/
def Channel.reopen (x : Channel) (f : Nat) : Channel :=
  x.updRec f fun r =>
    { r with
      mode := x.mode, cfg := x.cfg, thrA := x.a.thr, hysA := x.a.hys, thrB := x.b.thr
      unsettledA := r.unsettledA || !x.a.settled, unsettledB := r.unsettledB || !x.b.settled
      settledA := x.a.settled, settledB := x.b.settled, switched := r.switched || x.switch != .pin }

/-- An empty record of frame f with what a record already holds of that frame: its stamps, their counts, CAL_SLEW. -/
def FrameRec.with_ (o r : FrameRec) : FrameRec :=
  { o with stamps := r.stamps, offPin := r.offPin, disagree := r.disagree, lineStar := r.lineStar, quadEdges := r.quadEdges,
           calSlew := r.calSlew }

/-- A record changed, that of a frame which the next tick opens among them. -/
def Channel.updAny (x : Channel) (frame : Nat) (f : FrameRec → FrameRec) : Channel :=
  if x.frames.any fun r => frame ≤ r.frame then x.updRec frame f
  else { x with early := some (f (x.early.getD (FrameRec.opening frame x true))) }

/-- Comparators in PARK and switches at the pin within a frame, with what its record says of it (R46, R52, R79). -/
def Channel.parkIn (x : Channel) (cc frame : Nat) : Channel :=
  (x.park cc).updRec frame fun r => { r with unsettledA := true, unsettledB := true }

/-- The frame that holds an extended coarse count (R13, R80). -/
def Dev.frameOfCc (d : Dev) (cc : Nat) : Nat :=
  ((d.survey.frames.find? fun i => i.tick ≤ cc).map FrameInfo.frame).getD d.tb.frame

/-- The frame that holds a time in gr. An edge at the time of a tick belongs to the frame it opens (R13), also where
that tick is still to come. -/
def Dev.frameOfTime (d : Dev) (gr : Nat) : Nat :=
  if d.tb.nominal d.nextTick * 4096 ≤ gr then d.nextTick else d.frameOfCc (gr / 4096)

/-- The frame in progress is a lead-in frame (R105). -/
def Dev.inLeadIn (d : Dev) : Bool := d.survey.leadIn == some d.tb.frame

/-- CALIBRATE has this channel's bank in hand from its first tick on (R106). -/
def Dev.inCalibrate (d : Dev) (c : Nat) : Bool :=
  match d.cal.run with
  | some r => r.first ≤ d.tb.frame && bit r.banks (bankOf c)
  | none => false

/-! ## The edge sorter (R62) -/

/-- The four active lines in ascending order, S0 to S3. -/
def activeLines (shadow : Nat) : List Nat := (List.range 5).filter (· != shadow)

/-- The lines to which the edge at position `deal` of the dealing order goes. -/
def dealLines (mode : LineMode) (shadow deal : Nat) : List Nat :=
  let s := activeLines shadow
  match mode with
  | .quad => s
  | .dual => if deal % 2 = 0 then s.take 2 else s.drop 2
  | .single => (s.drop (deal % 4)).take 1

/-- EDGE_SEL keeps this sense (R148). -/
def EdgeSel.keeps (e : EdgeSel) (rising : Bool) : Bool :=
  match e with
  | .both => true
  | .rise => rising
  | .fall => !rising

/-- Whether the channel's edges of a crossing reach its stamp path at all (R38, R42, R105, R106, R380). -/
def Dev.stamping (d : Dev) (p : Nat) : Bool := d.partUp partStamp && d.partUp (bankOf p) && d.tb.running

/-- Deskew constants of a comparator in the range in force. -/
def Channel.deskewOf (x : Channel) (compB : Bool) : Deskew :=
  x.deskew.getD (2 * b2n compB + b2n x.cfg.highRange) Deskew.reset

/-- D_c of R108 for a comparator and a sense, in 1/16 gr. -/
def Channel.dc (x : Channel) (compB rising : Bool) : Int :=
  let k := x.deskewOf compB
  k.pkg + (if rising then k.intRise else k.intFall) + k.fix

/-- D_c of an edge on stamp path p; none is taken off for edges that only checks and deskew use. -/
def Dev.dcOn (d : Dev) (p : Nat) (rising partner atPin : Bool) : Int :=
  if atPin then (if partner then (d.chan (partnerOf p)).dc true rising else (d.chan p).dc false rising) else 0

/-- An edge enters the lines of stamp path p, under the settings of the frame (R18). -/
def Dev.deal (d : Dev) (p : Nat) (rising : Bool) (time : Nat) (mark : RuntMark) (partner atPin : Bool) : Dev :=
  d.updChan p fun x =>
    { x with
      inLines := x.inLines ++
        [{ frame := d.tb.frame, at_ := time, dc := d.dcOn p rising partner atPin, bFunc := x.cfg.bFunc, rising := rising,
           mode := x.mode, lines := dealLines x.mode (shadowLine d.tb.frame) x.deal, codes := [], runt := mark,
           partner := partner, atPin := atPin, credits := 0, cap := none }],
      deal := x.deal + 1 }

/-- Kept crossings of path p go into its lines: not in a lead-in frame or under CALIBRATE (R105, R106). -/
def Dev.takesEdges (d : Dev) (p : Nat) : Bool := d.stamping p && !d.inLeadIn && !d.inCalibrate p

/-- The prescaler's verdict on a selected crossing of path p: kept if it is a multiple of D (R149). -/
def Channel.keeps (x : Channel) (rising : Bool) : Bool :=
  x.cfg.edgeSel.keeps rising && x.prescale % x.cfg.decim == 0

/-- The prescaler has counted a crossing, if it is of a selected sense. -/
def Channel.counted (x : Channel) (rising : Bool) : Channel :=
  if x.cfg.edgeSel.keeps rising then { x with prescale := x.prescale + 1 } else x

/-- A crossing at the pin position on its way to path p: selection, prescaler, the sorter's count N, and
the lines, except in a lead-in frame or under CALIBRATE. `mark` is the mark that qualification gives. -/
def Dev.offer (d : Dev) (p : Nat) (rising : Bool) (time : Nat) (mark : RuntMark) (partner : Bool) : Dev :=
  let x := d.chan p
  let d1 := d.updChan p fun y => y.counted rising
  if x.keeps rising && d.stamping p then
    let d2 := d1.updChan p fun y => y.updRec d.tb.frame fun r => { r with sorted := r.sorted + 1 }
    if d.takesEdges p then d2.deal p rising time mark partner true else d2
  else d1

/-! ## Runt qualification (R41) -/

/-- The sense of a leading crossing: rising if THR_B lies above THR_A. -/
def Channel.leadRising (x : Channel) : Bool := x.a.thr < x.b.thr

/-- B_FUNC qualifies runts. -/
def BFunc.qualifies (b : BFunc) : Bool := b == .runtReject || b == .runtOnly

/-- The mark of held edges replaced by the decision. -/
def decideHeld (m : RuntMark) (es : List Edge) : List Edge :=
  es.map fun e => if e.runt = .held then { e with runt := m } else e

def Channel.decide (x : Channel) (m : RuntMark) : Channel :=
  { x with inLines := decideHeld m x.inLines, fifo := decideHeld m x.fifo, assembled := decideHeld m x.assembled }

/-- Whether an edge with this mark is stamped (R41). -/
def stampsEdge (f : BFunc) (m : RuntMark) : Bool :=
  match m with
  | .none => true
  | .held => true
  | .full => f != .runtOnly
  | .runt => f != .runtReject

/-- A judged runt pulse counted in the frame (R180 words 37, 38): under RUNT_REJECT as rejected, or as seen where the
path takes the partner's edges; under RUNT_ONLY as kept where its edges are stamped. -/
def Channel.countRunt (x : Channel) (frame : Nat) (ownPath stamped : Bool) : Channel :=
  let kept := fun (r : FrameRec) => { r with runtKept := r.runtKept + 1 }
  if x.cfg.bFunc = .runtReject then
    x.updRec frame fun r => if ownPath then { r with runtRej := r.runtRej + 1 } else kept r
  else if ownPath && stamped then x.updRec frame kept
  else x

/-- V_in lies beyond comparator B's threshold, seen from A's: B's output stands where a pulse takes it. -/
def Channel.beyondB (x : Channel) : Bool := x.b.mode != .park && x.b.settled && x.b.out == x.leadRising

/-- An A crossing of a channel that qualifies runts: the pulse opens or is decided, and the crossing, if
kept, goes on with its mark. A pulse at whose leading crossing B's output stands beyond its threshold is a full one: B's
trip point may lie within A's band (DEDUCED, log 191). R41 does not say how a pulse is judged whose leading crossing came under another B_FUNC: its
trailing edge is taken as that of a full pulse (DESIGN CHOICE, log 158). -/
def Dev.qualify (d : Dev) (c : Nat) (rising : Bool) (time : Nat) (ownPath : Bool) : Dev :=
  let x := d.chan c
  let kept := x.keeps rising
  if rising = x.leadRising then
    let d1 := if ownPath then d.offer c rising time (if x.beyondB then .full else .held) false else d
    d1.updChan c fun y =>
      { y with pulse := some { seen := true, crossedB := x.beyondB, forcedFull := false, kept := kept } }
  else
    match x.pulse with
    | none => if ownPath then d.offer c rising time .full false else d
    | some p =>
      let m := if p.crossedB || p.forcedFull then RuntMark.full else RuntMark.runt
      let d1 := d.updChan c fun y => { (y.decide m) with pulse := none }
      let d2 := d1.when (m = .runt ∧ (p.kept || kept)) fun e =>
        e.updChan c fun y => y.countRunt d.tb.frame ownPath (d.takesEdges c)
      if ownPath then d2.offer c rising time m false else d2

/-! ## Crossings -/

/-- The latches and the judged part of a comparator after a transition (R43, R50, R173). -/
def Comparator.transition (x : Comparator) (rising : Bool) (time : Nat) : Comparator :=
  let y := { x with out := rising, rose := x.rose || rising, fell := x.fell || !rising }
  if time < x.judgeFrom then y
  else { y with sawHigh := true, sawLow := true, judgedEdges := x.judgedEdges + 1 }

/-- A crossing changes this comparator's output: it runs, is SETTLED and stood on the other side. -/
def Comparator.flips (x : Comparator) (rising : Bool) : Bool :=
  x.mode != .park && x.settled && x.out != rising

/-- An internal deskew measures this channel in the frame in progress (R110). -/
def Dev.deskewing (d : Dev) (c : Nat) : Bool :=
  match d.cal.deskew with
  | some r => r.first ≤ d.tb.frame && r.fixture.isEmpty && c ∈ r.channels
  | none => false

/-- The time lies in the second half of the frame in progress. -/
def Dev.secondHalf (d : Dev) (time : Nat) : Bool := d.tb.tickTime + 2 ^ (d.tb.k - 1) * 4096 ≤ time

/-- Channel c's stamp path takes its own A edges, not its partner's B edges (R42). -/
def Dev.ownPath (d : Dev) (c : Nat) : Bool := (d.chan (partnerOf c)).cfg.bFunc != .partner

/-- COMPARATOR_A_EDGE (R62): output, latches and relay level at once; a FAST comparator's edge goes to the
sorter by way of edge selection, prescaler and runt qualification. Off the pin it serves checks only. -/
def Dev.edgeA (d : Dev) (x : Crossing) : Dev :=
  let c := x.ch
  if d.partUp (bankOf c) && (d.chan c).a.flips x.rising then
    let d1 := (d.updChan c fun y => { y with a := y.a.transition x.rising x.time }).compLevels c false
    let y := d1.chan c
    if y.a.mode != .fast then d1
    else if y.switch != .pin then
      if d1.stamping c && !(d1.deskewing c && d1.secondHalf x.time) then d1.deal c x.rising x.time .none false false
      else d1
    else if y.cfg.bFunc.qualifies then d1.qualify c x.rising x.time (d1.ownPath c)
    else if d1.ownPath c then d1.offer c x.rising x.time .none false
    else d1
  else d

/-- COMPARATOR_B_EDGE (R40): output, latches and relay level; by B_FUNC it decides a runt or is stamped on
the partner channel (R42). Of switches off the pin R47 names comparator A's edges only; those of B go to no partner then
either (DESIGN CHOICE, log 179). -/
def Dev.edgeB (d : Dev) (x : Crossing) : Dev :=
  let c := x.ch
  if d.partUp (bankOf c) && (d.chan c).b.flips x.rising then
    let d1 := (d.updChan c fun y => { y with b := y.b.transition x.rising x.time }).compLevels c true
    let y := d1.chan c
    if y.switch != .pin then
      if y.b.mode = .fast ∧ d1.stamping c ∧ d1.deskewing c ∧ d1.secondHalf x.time then
        d1.deal c x.rising x.time .none true false
      else d1
    else if y.cfg.bFunc.qualifies then
      if y.pulse.isSome then
        d1.updChan c fun z =>
          { (z.decide .full) with pulse := z.pulse.map fun p => { p with crossedB := true } }
      else d1
    else if y.cfg.bFunc = .partner ∧ y.b.mode = .fast then d1.offer (partnerOf c) x.rising x.time .none true
    else d1
  else d

/-- COMPARATOR_SETTLED (R45): after the settle time, the first moment outside the band. The first state is
not latched, stamped or delivered. Whether a comparator in PARK can become SETTLED R45 does not say: it stays UNSETTLED
(DESIGN CHOICE, log 127). Nor does R41 say what a first state of comparator B beyond its threshold means for a pulse that is
under way: it is no crossing of B (DESIGN CHOICE, log 157). -/
def Dev.settled (d : Dev) (c : Nat) (compB above : Bool) (time : Nat) : Dev :=
  let k := (d.chan c).comp compB
  if d.partUp (bankOf c) && k.mode != .park && !k.settled && k.settleEnd * 4096 ≤ time then
    d.updChan c fun x =>
      let y := x.updComp compB fun z =>
        let w := { z with settled := true, out := above }
        if time < z.judgeFrom then w
        else { w with sawHigh := z.sawHigh || above, sawLow := z.sawLow || !above }
      y.updRec d.tb.frame fun r => if compB then { r with settledB := true } else { r with settledA := true }
  else d

end Sys2Proof.Machine
end

