-- ==== Sys2Proof/Machine/Stamping.lean ====
section
/-! DEFINITION. From line readings to stamps: the burst FIFO and its credits, the assembler, the stamp words and
the checks of the stamp path (03 R64 to R82, 04 R108). -/

namespace Sys2Proof.Machine

/-! ## Tables and constants -/

/-- Entry d of a correction table, in 1/16 gr (R84, R86). -/
def Table.entry (t : Table) (d : Nat) : Int :=
  match t with
  | .linear => 128 * (d : Int)
  | .entries l => l.getD d 0

/-- The 1,536 entries. -/
def Table.list (t : Table) : List Int :=
  match t with
  | .linear => (List.range 1536).map fun (d : Nat) => 128 * (d : Int)
  | .entries l => l

/-- The entry that serves an edge: the table of the frame in which it was dealt (R97). -/
def Line.lut (l : Line) (old : Bool) (d : Nat) : Int :=
  (if old then l.before.getD l.table else l.table).entry d

/-! ## The assembler (R64, R65) -/

/-- A stamp's time in gr from its lines' times in 1/16 gr, rounded half up. -/
def meanTime (ts : List Int) : Int :=
  let m : Int := ts.length
  if ts = [] then 0 else (sumI ts + 8 * m) / (16 * m)

/-- e_l of each line: three times its difference from the mean of the other three. -/
def quadErrors (ts : List Int) : List Nat := ts.map fun t => (4 * t - sumI ts).natAbs

/-- The position of the largest error, the first on a tie. -/
def starOf (es : List Nat) : Nat := es.findIdx (· == maxN es)

/-- Every one of three lines lies within 96 gr of the mean of the other two. -/
def threeAgree (ts : List Int) : Bool := ts.all fun t => (3 * t - sumI ts).natAbs ≤ 2 * 1536

/-- What the assembler makes of an edge's line times: the times used, the outlying line's position, and
whether some line disagreed. -/
structure Verdict where
  used : List Int
  star : Option Nat
  disagree : Bool
  deriving DecidableEq, Repr

def assemble (ts : List Int) : Verdict :=
  if ts.length = 4 then
    let es := quadErrors ts
    let s := starOf es
    if es.getD s 0 > 3 * 1536 then
      { used := if threeAgree (ts.eraseIdx s) then ts.eraseIdx s else ts, star := some s, disagree := true }
    else { used := ts, star := none, disagree := false }
  else if ts.length = 2 then
    { used := ts, star := none, disagree := (ts.getD 0 0 - ts.getD 1 0).natAbs > 1536 }
  else { used := ts, star := none, disagree := false }

/-! ## The burst FIFO (R70) -/

/-- The coarse edge that reads an edge: the latest of its lines'. -/
def Edge.readAt (e : Edge) : Nat := maxN (e.codes.map LineCode.count)

/-- Credits spent on the entries in FIFO order. -/
def spend : Nat → List Edge → List Edge
  | _, [] => []
  | n, e :: r =>
    let g := min n (e.lines.length - e.credits)
    { e with credits := e.credits + g } :: spend (n - g) r

/-- The entry may leave: all its credits and its decision are there. -/
def Edge.ready (e : Edge) : Bool := e.lines.length ≤ e.credits && e.runt != .held

/-- One coarse edge: two credits, then the entries that may leave go on to the assembler's output. -/
def Channel.drainOne (x : Channel) : Channel :=
  let f := spend 2 x.fifo
  { x with fifo := f.dropWhile Edge.ready, assembled := x.assembled ++ f.takeWhile Edge.ready,
           fifoAt := x.fifoAt + 1 }

/-- n coarse edges. -/
def Channel.drain (x : Channel) : Nat → Channel
  | 0 => x
  | n + 1 => x.drainOne.drain n

/-- The credits of every coarse edge up to and including `cc`. A full FIFO empties in 128, so the last 256
do what all would. -/
def Channel.drainTo (x : Channel) (cc : Nat) : Channel :=
  let y := x.drain (min 256 (cc - x.fifoAt))
  { y with fifoAt := max x.fifoAt cc }

/-! ## Lost edges (R71, R80, R81) -/

/-- n edges lost in a frame, by the FIFO or by a check. The last frame with a loss is the latest of them, whichever
was found last. -/
def Channel.lose (x : Channel) (frame n : Nat) (check : Bool) : Channel :=
  let y := x.updRec frame fun r =>
    let m := if check then r.lostCheck + n else r.lostFifo + n
    let q := { r with saturated := r.saturated || (clampWord m).2 }
    if check then { q with lostCheck := clampU 36 m } else { q with lostFifo := clampU 36 m }
  if n = 0 then y
  else { y with lostTotal := clampU 48 (x.lostTotal + n), lastLoss := max x.lastLoss frame }

/-- A loss found after the tick that closed its frame sets LOST_SEEN at once (R81). -/
def Dev.lateLoss (d : Dev) (frame n : Nat) : Dev := d.when (0 < n && frame < d.tb.frame) fun e => e.setFlag flagLost

/-- The frame of a stamp at time `t` of an edge. -/
def Dev.frameOfEdge (d : Dev) (e : Edge) (t : Nat) : Nat :=
  match e.cap with
  | some f => min f (d.frameOfTime t)
  | none => d.frameOfTime t

/-- LINE_READ: the oldest edge in the lines is read and enters the FIFO, or is lost if 64 are held; one made off the
pin is gone without being a lost edge (R82). Readings of other lines than the edge was dealt to are no reading of it. -/
def Dev.lineRead (d : Dev) (c : Nat) (codes : List LineCode) : Dev :=
  match (d.chan c).inLines with
  | [] => d
  | e :: rest =>
    if codes.map LineCode.line = e.lines ∧ d.partUp partStamp then
      let e1 := { e with codes := codes }
      let cc := e1.readAt
      let y := { d.chan c with inLines := rest }.drainTo cc
      if y.fifo.length < 64 then d.updChan c fun _ => { y with fifo := y.fifo ++ [e1] }
      else (d.updChan c fun _ => y.lose (d.frameOfCc cc) (b2n e.atPin) false).lateLoss (d.frameOfCc cc) (b2n e.atPin)
    else d

/-! ## Stamps (R74, R76) -/

def LineMode.code (m : LineMode) : Nat :=
  match m with
  | .single => 0
  | .dual => 1
  | .quad => 2

/-- Number of ones. -/
def popCount (n : Nat) : Nat := ((List.range 72).filter n.testBit).length

/-- Words A and B of a stamp. -/
def Stamp.words (s : Stamp) : List Word :=
  let coarse := s.time / 4096
  let a := coarse % 2 ^ 48 / 4096
  let b := packNat [(35, 24, coarse % 4096), (23, 12, s.time % 4096), (11, 5, s.ch), (4, 4, b2n s.rising),
    (3, 3, coarse / 2 ^ 48 % 2), (2, 1, s.mode.code)]
  [w36 a, w36 (b + (1 - (popCount (a * 2 ^ 36 + b)) % 2))]

/-- The compact record of a stamp whose frame opened at extended count `tick` (R76, R178). -/
def Stamp.compact (s : Stamp) (offset : Nat) : Word :=
  word [(35, 12, offset), (11, 1, s.time % 4096 / 2), (0, 0, b2n s.rising)]

/-- The times of an edge's lines in 1/16 gr, with D_c taken off. -/
def Dev.lineTimes (d : Dev) (c : Nat) (e : Edge) : List Int :=
  e.codes.map fun k =>
    (k.count : Int) * 65536 - ((d.chan c).line k.line).lut (decide (e.frame < d.tb.frame)) k.tap - e.dc

/-- The frame to which the stamp of an edge that has been read belongs. -/
def Dev.stampFrame (d : Dev) (c : Nat) (e : Edge) : Nat :=
  d.frameOfEdge e (meanTime (assemble (d.lineTimes c e)).used).toNat

/-- An edge still in the lines can have a stamp before the tick that ends frame f: it was dealt by then, or its crossing
less D_c lies before the first coarse edge after that tick. -/
def Dev.mayBelong (d : Dev) (f : Nat) (e : Edge) : Bool :=
  decide (e.frame ≤ f) ||
    (d.survey.frames.find? fun i => i.frame == f + 1).any fun i => decide ((e.at_ : Int) * 16 - e.dc < (i.tick + 1) * 65536)

/-- No edge whose stamp belongs to frame f or an earlier one is on its way to it (R13, R73). -/
def Dev.drained (d : Dev) (c f : Nat) : Bool :=
  let x := d.chan c
  !(x.inLines.any (d.mayBelong f) || (x.fifo ++ x.assembled).any fun e => decide (d.stampFrame c e ≤ f))

/-- What the assembler judged of an edge is counted in the frame of its stamp, whether or not it is stamped (R65, R70). -/
def Channel.judgedEdge (x : Channel) (frame : Nat) (e : Edge) (v : Verdict) : Channel :=
  let y := x.updAny frame fun r =>
    { r with
      disagree := r.disagree + b2n v.disagree
      quadEdges := r.quadEdges + b2n (e.mode == .quad)
      lineStar := match v.star with
        | some p => r.lineStar.modify (e.lines.getD p 0) (· + 1)
        | none => r.lineStar }
  { y with disagreeTotal := x.disagreeTotal + b2n v.disagree }

/-- A stamp goes to the channel's record of its frame; one of an edge off the pin, to its own list. -/
def Channel.take (x : Channel) (frame : Nat) (s : Stamp) (atPin : Bool) : Channel :=
  x.updAny frame fun r =>
    if atPin then { r with stamps := r.stamps ++ [s] } else { r with offPin := r.offPin ++ [s] }

/-- STAMP_RETIRE at coarse edge `now`: the next entry that has left the FIFO is assembled and judged, and becomes a
stamp, is withheld by runt qualification, or is lost to a parity error (R75). -/
def Dev.stampRetire (d : Dev) (c now : Nat) (parityBad : Bool) : Dev :=
  let d1 := d.updChan c fun x => x.drainTo now
  match (d1.chan c).assembled with
  | [] => d1
  | e :: rest =>
    let d2 := d1.updChan c fun x => { x with assembled := rest }
    let v := assemble (d.lineTimes c e)
    let t := (meanTime v.used).toNat
    let f := d.frameOfEdge e t
    let lossAt := d.frameOfEdge e (e.readAt * 4096)
    let d3 := d2.updChan c fun x => x.judgedEdge f e v
    if stampsEdge e.bFunc e.runt then
      if parityBad then (d3.updChan c fun x => x.lose lossAt (b2n e.atPin) true).lateLoss lossAt (b2n e.atPin)
      else d3.updChan c fun x => x.take f { time := t, ch := c, rising := e.rising, mode := e.mode } e.atPin
    else d3

/-! ## Checks of the stamp path (R79) -/

/-- The assembler's count after a check in cycle `now`: the received count if its parity is good, its local count
otherwise. -/
def Channel.recount (x : Channel) (now : Nat) (parityGood : Bool) : Channel :=
  { x with localCount := if parityGood then now else x.localCount + (now - x.localAt), localAt := now }

/-- STAMP_CHECK in coarse cycle `now`: the edges read in that cycle are discarded (those entered already, and the
first `inFlight` still in the lines), those at the pin counted as lost; the error is counted, the assembler takes one of
its two counts, and two unrecoverable cycles park the channel. -/
def Dev.stampCheck (d : Dev) (c now : Nat) (parityGood mismatch : Bool) (inFlight : Nat) : Dev :=
  if d.partUp partStamp && (!parityGood || mismatch) then
    let hit := fun e : Edge => e.readAt == now
    let x := d.chan c
    let n := ((x.fifo.filter hit ++ x.assembled.filter hit ++ x.inLines.take inFlight).filter Edge.atPin).length
    let hard := !parityGood && mismatch
    let park := hard && x.badCycle == some (now - 1)
    let d1 := d.updChan c fun y =>
      let z := { y.recount now parityGood with
                 fifo := y.fifo.filter fun e => !hit e,
                 assembled := y.assembled.filter fun e => !hit e,
                 inLines := y.inLines.drop inFlight,
                 badCycle := if hard then some now else none,
                 stampCheckTotal := y.stampCheckTotal + 1 }
      let w := (z.lose (d.frameOfCc now) n true).updRec (d.frameOfCc now) fun r =>
        { r with stampCheck := r.stampCheck + 1 }
      if park then { w.parkIn now d.tb.frame with parked := true } else w
    (d1.pulse 373).lateLoss (d.frameOfCc now) n
  else d

end Sys2Proof.Machine
end

