-- ==== Sys2Proof/Machine/Channels.lean ====
section
/-! DEFINITION. Channel commands: SET_CHANNEL, SET_LEVELS, GET_CHANNEL_STATUS, CHECK_INPUT and AUTO_LEVEL, and
what they do at ticks (02 R29 to R52, 06 R148 to R151, R173 to R175, 13 R323). -/

namespace Sys2Proof.Machine

/-! ## Checks that need the device -/

/-- The refusal for a partition in reset or powered down (R378). -/
def Dev.partFault (d : Dev) (p : Nat) : Option Fail :=
  if (d.part p).down then some (failObj ePartDown 0xFFF 11 p)
  else if (d.part p).inReset then some (failObj ePartReset 0xFFF 11 p)
  else none

/-- The first refusal among the partitions that a command needs. -/
def Dev.partsFault (d : Dev) (ps : List Nat) : Option Fail := ps.findSome? d.partFault

/-- The FE partitions of channels. -/
def banksOf (chs : List Nat) : List Nat := (List.range 12).filter fun b => chs.any fun c => bankOf c == b

/-- The first refusal of a list of checks; `true` is a refusal. -/
def firstFail : List (Bool × Fail) → Option Fail
  | [] => none
  | (b, f) :: r => if b then some f else firstFail r

/-- A body that first makes checks. -/
def Dev.check (d : Dev) (f : Option Fail) (k : Dev → Dev × Reply) : Dev × Reply :=
  match f with
  | some e => (d, .fail e)
  | none => k d

/-- The maps with every accepted change: number and definition. -/
def Dev.committedMaps (d : Dev) : List (Nat × MapCfg) :=
  d.fw.deferred.foldl (fun l e => match e.effect with
    | .contour n c _ => (l.filter fun x => x.1 != n) ++ [(n, c)]
    | .deleteContour n => l.filter fun x => x.1 != n
    | _ => l) (d.cap.maps.map fun m => (m.num, m.cfg))

/-- A LEVEL_EYE map sweeps comparator B of channel c (R249). -/
def Dev.hasEye (d : Dev) (c : Nat) : Bool := d.committedMaps.any fun m => m.2.kind == 4 && m.2.chA == c

/-- FIRST and LAST as channels. -/
def Cmd.channels (c : Cmd) : List Nat := range2 (c.f 1 35 29) (c.f 1 28 22)

def Cmd.badRange (c : Cmd) : Bool := decide (c.f 1 28 22 < c.f 1 35 29) || decide (95 < c.f 1 28 22)

/-! ## SET_CHANNEL (R323) -/

def termOf (n : Nat) : Term := if n = 0 then .opn else if n = 1 then .vtt50 else .diff100
def modeOf (n : Nat) : CompMode := if n = 0 then .park else if n = 1 then .track else .fast
def bFuncOf (n : Nat) : BFunc :=
  if n = 0 then .level else if n = 1 then .window else if n = 2 then .runtReject else if n = 3 then .runtOnly else .partner
def lineModeOf (n : Nat) : Option LineMode :=
  if n = 0 then some .single else if n = 1 then some .dual else if n = 2 then some .quad else none
def edgeSelOf (n : Nat) : EdgeSel := if n = 0 then .both else if n = 1 then .rise else .fall

/-- The settings of SET_CHANNEL; the levels are not its own. -/
def Cmd.chanCfg (c : Cmd) : ChanCfg :=
  { ChanCfg.reset with
    term := termOf (c.f 2 1 0), highRange := c.b 2 2, modeA := modeOf (c.f 2 4 3), modeB := modeOf (c.f 2 6 5),
    bFunc := bFuncOf (c.f 2 9 7), latchFrame := c.b 2 10, lineMode := lineModeOf (c.f 2 12 11),
    edgeSel := edgeSelOf (c.f 2 14 13), decim := c.f 2 30 15 + 1 }

/-- A combination that R38 or R148 refuses. -/
def ChanCfg.refused (x : ChanCfg) : Bool :=
  ((x.bFunc.qualifies || x.bFunc == .partner) && x.modeB != .fast) || (x.bFunc.qualifies && x.modeA != .fast) ||
    (x.decim != 1 && x.edgeSel == .both)

def Cmd.setChannelFaults (c : Cmd) : List Nat :=
  faultsOf [(1, c.badRange),
    (2, c.f 2 1 0 == 3 || c.f 2 4 3 == 3 || c.f 2 6 5 == 3 || decide (4 < c.f 2 9 7) || c.f 2 14 13 == 3 || c.chanCfg.refused)]

/-- Runt qualification between equal thresholds (R41). -/
def ChanCfg.equalRunt (x : ChanCfg) : Bool := x.bFunc.qualifies && x.thrA == x.thrB

/-- In a run or its HOLD. -/
def OpState.running (o : OpState) : Bool := o == .surveying || o == .hold

/-- A change of settings creates a conflict of R151: one of some item's needs that was met is met no longer. -/
def Dev.newConflict (d : Dev) (view : Nat → ChanCfg) : Bool :=
  d.judged.running && d.committedItems.any fun x =>
    ((x.2.unmet view).zip (x.2.unmet d.committedCfg)).any fun p => p.1 && !p.2

/-- SET_CHANNEL's checks against the settings that will be in force at its tick (R41, R42, R249), and its conflicts with
the items under every accepted change (R151). -/
def Dev.setChannelFail (d : Dev) (c : Cmd) : Option Fail :=
  let chs := c.channels
  let e := Effect.channel (c.f 1 35 29) (c.f 1 28 22) c.chanCfg
  let view := fun n => cfgAfter n (d.nextCfg n) e
  let all := fun n => cfgAfter n (d.committedCfg n) e
  firstFail [
    (chs.any fun n => (view n).equalRunt, failAt eParam 2),
    (chs.any fun n => (view n).bFunc == .partner && (view (partnerOf n)).bFunc == .partner, failAt eParam 2),
    (d.newConflict all, failAt eParam 2),
    (chs.any fun n => d.hasEye n && !((view n).bFunc == .partner && (view n).modeB == .fast), failAt eResource 2)]
  <|> d.partsFault (banksOf chs)

def mbSetChannel : MbCommand :=
  onDev (form 0x101 [2]) (fun _ => [[(35, 22)], [(30, 0)]]) Cmd.setChannelFaults fun d c =>
    d.check (d.setChannelFail c) fun e =>
      e.deferNext c (.channel (c.f 1 35 29) (c.f 1 28 22) c.chanCfg) []

def execSetChannel (slot : SlotId) (s : State) : Host.Outcome State Fault Refusal := done (s.accept slot mbSetChannel)

/-! ## SET_LEVELS -/

def Cmd.levels (c : Cmd) : Effect :=
  .levels (c.f 1 35 29) (c.f 1 28 22) (c.b 1 21) (c.b 1 20) (c.f 2 35 22) (c.f 2 21 16) (c.f 3 35 22) (c.f 3 21 16)

def Dev.setLevelsFail (d : Dev) (c : Cmd) : Option Fail :=
  let view := fun n => cfgAfter n (d.nextCfg n) c.levels
  firstFail [
    (c.channels.any fun n => (view n).equalRunt, failAt eParam (if c.b 1 21 then 2 else 3)),
    (c.channels.any fun n => d.hasEye n && (view n).thrB != (d.nextCfg n).thrB, failAt eResource 3)]
  <|> d.partsFault (banksOf c.channels)

def mbSetLevels : MbCommand :=
  onDev (form 0x102 [3]) (fun _ => [[(35, 20)], [(35, 16)], [(35, 16)]])
    (fun c => faultsOf [(1, c.badRange), (1, !c.b 1 21 && !c.b 1 20)]) fun d c =>
    d.check (d.setLevelsFail c) fun e => e.deferNext c c.levels []

def execSetLevels (slot : SlotId) (s : State) : Host.Outcome State Fault Refusal := done (s.accept slot mbSetLevels)

/-! ## The settings at a tick (R30, R39, R45, R148, R149) -/

/-- The settings that hold from a tick on come to the comparators, whose settings were `old` in the frame that ended.
A change of RANGE or TERM is a change of the input path; a change of EDGE_SEL or DECIM restarts the prescaler; and a B_FUNC
that qualifies no runts judges no pulse (R41). -/
def Channel.adopt (x : Channel) (cc : Nat) (old : ChanCfg) : Channel :=
  let path := old.term != x.cfg.term || old.highRange != x.cfg.highRange
  let sel := old.edgeSel != x.cfg.edgeSel || old.decim != x.cfg.decim
  if old = x.cfg then x
  else
    { x with prescale := if sel then 0 else x.prescale, pulse := if x.cfg.bFunc.qualifies then x.pulse else none }.restore cc path

/-- A channel effect notes the settings; the comparators take those that are left when every effect of the tick has
(R30). A new SET_CHANNEL restores a parked channel (R52, R79). -/
def Dev.applyChannel (d : Dev) (e : Effect) : Dev :=
  d.updChans fun n x =>
    { x with cfg := cfgAfter n x.cfg e, parked := x.parked && match e with
      | .channel lo hi _ => !(decide (lo ≤ n) && decide (n ≤ hi))
      | .loadSettings _ _ skip => decide (bankOf n ∈ skip)
      | _ => true }

/-- A channel whose B_FUNC changed to or from WINDOW: source 96 + c carries what its new function gives (R40; DEDUCED,
log 138). -/
def Dev.newSourceB (d : Dev) (c : Nat) (old : ChanCfg) : Dev :=
  d.when ((old.bFunc == .window) != ((d.chan c).cfg.bFunc == .window)) fun e => e.levelB c

/-- The settings of every channel come into force at the tick at `cc`, once; `old` are those of the frame that ended. -/
def Dev.adoptAll (d : Dev) (cc : Nat) (old : List ChanCfg) : Dev :=
  let cfg := fun c => old.getD c ChanCfg.reset
  (d.updChans fun c x => x.adopt cc (cfg c)).each (List.range 96) fun e c => e.newSourceB c (cfg c)

/-! ## GET_CHANNEL_STATUS (R43, R81) -/

/-- OUT, SETTLED, MODE, ROSE and FELL. An UNSETTLED comparator's output is undefined (R45): the free value `u`. -/
def compField (x : Comparator) (frame u : Bool) : Nat :=
  packNat [(5, 5, b2n (if x.mode = .park then false else if x.settled then x.out else u)), (4, 4, b2n x.settled),
    (3, 2, match x.mode with | .park => 0 | .track => 1 | .fast => 2),
    (1, 1, b2n (if frame then x.lastRose else x.rose)), (0, 0, b2n (if frame then x.lastFell else x.fell))]

/-- Transitions set the latches of a comparator that runs and is SETTLED (R43). -/
def Comparator.latch (x : Comparator) (rose fell : Bool) : Comparator :=
  if x.mode != .park && x.settled then { x with rose := x.rose || rose, fell := x.fell || fell } else x

/-- The latches that transitions of both comparators set, as GET_CHANNEL_STATUS gives them. -/
def Channel.latched (x : Channel) (hw : BitVec 4) : Channel :=
  { x with a := x.a.latch (bit hw 3) (bit hw 2), b := x.b.latch (bit hw 1) (bit hw 0) }

/-- The latches of a STICKY channel cleared. -/
def Comparator.clearLatches (x : Comparator) : Comparator := { x with rose := false, fell := false }

def Channel.statusWords (x : Channel) (ua ub : Bool) : List Word :=
  [word [(35, 30, compField x.a x.cfg.latchFrame ua), (29, 24, compField x.b x.cfg.latchFrame ub), (23, 22, x.mode.code)]] ++
    words72 x.lostTotal ++ [w36 x.lastLoss] ++ words72 x.stampCheckTotal ++ words72 x.disagreeTotal

/-- GET_CHANNEL_STATUS (R43). A transition at the instant of the clear, one of `hw`, is reported as set and stays set; what
else it does is the effect of its own COMPARATOR_A_EDGE or COMPARATOR_B_EDGE (log 192). -/
def mbGetChannelStatus (hw : BitVec 4) : MbCommand :=
  onDev { opcode := 0x105, counts := [1], options := [20], chunk := false } (fun _ => [[(35, 29)]])
    (fun c => faultsOf [(1, decide (95 < c.f 1 35 29))]) fun d c =>
    let n := c.f 1 35 29
    d.check (d.partFault (bankOf n)) fun e0 =>
      let x := (e0.chan n).latched hw
      let u := e0.nextFree
      let v := u.2.nextFree
      let e := v.2.updChan n fun y =>
        if c.b 0 20 && !y.cfg.latchFrame then { y with a := y.a.clearLatches, b := y.b.clearLatches }.latched hw
        else y.latched hw
      (e, .ok (x.statusWords (Config.unsettledOutput u.1) (Config.unsettledOutput v.1)))

def execGetChannelStatus (read : StatusRead) (s : State) : Host.Outcome State Fault Refusal :=
  done (s.accept read.slot (mbGetChannelStatus read.hw))

/-! ## CHECK_INPUT (R47 to R51) -/

/-- A mask of 1 to 32 channels. -/
def Cmd.badMask (c : Cmd) : Bool :=
  let n := (channelMask (c.w 1) (c.w 2) (c.w 3)).length
  n == 0 || decide (32 < n)

def mbCheckInput : MbCommand :=
  onDev (form 0x104 [3]) (fun _ => maskWords) (fun c => faultsOf [(1, c.badMask)]) fun d c =>
    let chs := channelMask (c.w 1) (c.w 2) (c.w 3)
    d.check (d.partsFault (banksOf chs ++ [partStamp])) fun e =>
      let r : CheckRun := ⟨c.slot, chs, e.nextTick, chs.map fun _ => ([], []), false⟩
      (e.onFw fun w => { w with check := some r }, .running)

def execCheckInput (slot : SlotId) (s : State) : Host.Outcome State Fault Refusal := done (s.accept slot mbCheckInput)

/-- The part of the frame opened at `cc` that is judged starts 1,024 coarse cycles after its tick. -/
def Comparator.judge (x : Comparator) (cc : Nat) : Comparator :=
  { x with judgeFrom := (cc + 1024) * 4096, sawHigh := false, sawLow := false, judgedEdges := 0 }

def Channel.judge (x : Channel) (cc : Nat) : Channel := { x with a := x.a.judge cc, b := x.b.judge cc }

/-- High or low at some moment of the judged part, to its end. -/
def Comparator.above (x : Comparator) : Bool := x.sawHigh || (x.settled && x.out)
def Comparator.below (x : Comparator) : Bool := x.sawLow || (x.settled && !x.out)

/-- The switch position of a step (R50). -/
def checkSwitch (step : Nat) : Switch :=
  if step = 1 then .tieLo else if step = 2 then .tieHi else if step = 3 then .tieHiSwap
  else if step = 4 then .tieLoSwap else if step = 5 then .benchmark else .pin

/-- V_in of a tie step in the low range, in mV (R49). -/
def tieMv (step : Nat) : Int := if step = 1 then -500 else if step = 2 then 1500 else if step = 3 then -1500 else 500

/-- What a comparator must show in a tie step: `none` where neither trip point clears the margin. Voltages are in
1/32,768 mV of the low range; the high range doubles every one of them, which changes nothing. Where a wide hysteresis
lets both trip points clear it, R50 does not say which expectation holds: high (DESIGN CHOICE, log 129). -/
def tieExpected (thr hys step : Nat) : Option Bool :=
  let v : Int := 32768 * tieMv step
  let th : Int := -32768000 + (thr : Int) * 6000
  let h : Int := (hys : Int) * 16384
  if th - h + 20 * 32768 ≤ v then some true
  else if v + 20 * 32768 ≤ th + h then some false
  else none

/-- The result of a tie step for one comparator (R51). -/
def tieResult (x : Comparator) (step : Nat) : Nat :=
  match (if x.mode = .park then none else tieExpected x.thr x.hys step) with
  | none => 0x5
  | some hi =>
    if !x.settled then 0x4
    else if x.judgedEdges != 0 then 0x3
    else if hi && !x.above then 0x2
    else if !hi && x.above then 0x1
    else 0x0

/-- The result of step 0. -/
def pinResult (x : Comparator) : Nat :=
  if !x.settled then 0x4 else if x.judgedEdges != 0 then 0xA else if x.out then 0x9 else 0x8

/-- Edges that the stamp path counts in the judged part of a frame: stamps, and edges still on their way. -/
def Channel.pathCount (x : Channel) (frame fromGr : Nat) : Nat :=
  ((x.record frame).offPin.filter fun s => fromGr ≤ s.time).length +
    ((x.inLines ++ x.fifo ++ x.assembled).filter fun e => e.frame == frame && !e.atPin).length

/-- The results of a step for comparators A and B. -/
def Channel.stepResult (x : Channel) (step frame fromGr k : Nat) : Nat × Nat :=
  if step = 0 then (pinResult x.a, pinResult x.b)
  else if step < 5 then (tieResult x.a step, tieResult x.b step)
  else
    (if x.a.mode = .park then 0x5 else if !x.a.settled then 0x4
     else if x.pathCount frame fromGr = 2 ^ (k - 3) - 128 then 0x0 else 0x6,
     if x.b.mode = .park then 0x5 else if !x.b.settled then 0x4
     else if 2 ≤ x.b.judgedEdges then 0x0 else 0x6)

/-- RESULT words of the command; steps not reached report SKIPPED. -/
def resultWord (l : List Nat) : Word :=
  w36 (packNat ((fit 6 0x5 l).zipIdx.map fun x => (4 * x.2 + 3, 4 * x.2, x.1)))

def CheckRun.words (r : CheckRun) : List Word := r.results.flatMap fun x => [resultWord x.1, resultWord x.2]

/-- Channels whose checks, searches or deskew were dropped have their switches and settings back at the tick at `cc`. -/
def Dev.restoreTick (d : Dev) (cc : Nat) : Dev :=
  (d.each d.fw.restores fun e r => e.updChan r.1 fun x =>
    let y := x.setSwitch cc .pin
    if r.2 then ({ y with heldB := false } : Channel).restore cc (x.switch != Switch.pin) else y).onFw fun w => { w with restores := [] }

/-- Channels put at a switch position. -/
def Dev.switchAll (d : Dev) (chs : List Nat) (cc : Nat) (p : Switch) : Dev :=
  d.each chs fun e n => e.updChan n fun x => (x.setSwitch cc p).judge cc

/-- The step of CHECK_INPUT that ends with the frame in progress is judged by that frame's settings. -/
def Dev.checkJudge (d : Dev) : Dev :=
  d.onFw fun w =>
    { w with check := w.check.map fun r =>
        if d.tb.frame < r.first then r
        else { r with results := (r.channels.zip r.results).map fun x =>
          let y := (d.chan x.1).stepResult (d.tb.frame - r.first) d.tb.frame ((d.tb.tickCount + 1024) * 4096) d.tb.k
          (x.2.1 ++ [y.1], x.2.2 ++ [y.2]) } }

/-- CHECK_INPUT at the tick that opens `frame` at `cc`: the next step's position is taken, or the command ends. -/
def Dev.checkTick (d : Dev) (frame cc : Nat) : Dev :=
  match d.fw.check with
  | none => d
  | some r =>
    if frame < r.first then d
    else
      let step := frame - r.first
      let stop := fun (e : Dev) => (e.switchAll r.channels cc .pin).onFw fun w => { w with check := none }
      if r.cancelled then
        (stop d).reply r.slot (.fail { code := eCancelled, index := 0xFFF, detail := 0, resp := r.words })
      else if step = 6 then (stop d).reply r.slot (.ok r.words)
      else (d.switchAll r.channels cc (checkSwitch step)).progress r.slot (1000 * step / 6)

/-! ## AUTO_LEVEL (R173, R174) -/

def mbAutoLevel : MbCommand :=
  onDev (form 0x103 [4]) (fun _ => maskWords ++ [[(35, 19)]])
    (fun c => faultsOf [(1, c.badMask), (4, c.f 4 35 29 == 0 || decide (99 < c.f 4 35 29)),
      (4, c.f 4 27 19 == 0 || decide (256 < c.f 4 27 19))]) fun d c =>
    let chs := channelMask (c.w 1) (c.w 2) (c.w 3)
    d.check (d.partsFault (banksOf chs)) fun e =>
      let r : LevelRun :=
        { slot := c.slot, pct := c.f 4 35 29, hysAuto := c.b 4 28, dwell := c.f 4 27 19, step := 0, stepFrom := e.nextTick,
          chans := chs.map fun n => { ch := n, skipped := false, code := 0, top := 0, bot := 16383 },
          cancelled := false }
      (e.onFw fun w => { w with levels := some r }, .running)

def execAutoLevel (slot : SlotId) (s : State) : Host.Outcome State Fault Refusal := done (s.accept slot mbAutoLevel)

/-- The code of a step of the binary search: up from c_top in steps 1 to 14, down from c_bot in steps 15 to 28. -/
def LevelSearch.codeOf (l : LevelSearch) (step : Nat) : Nat :=
  if step ≤ 14 then l.top + 2 ^ (14 - step) else l.bot - 2 ^ (28 - step)

/-- What a step found: B was seen above, or below, at its code. -/
def LevelSearch.found (l : LevelSearch) (step : Nat) (b : Comparator) : LevelSearch :=
  if step ≤ 14 then (if b.above then { l with top := l.code } else l)
  else if b.below then { l with bot := l.code } else l

/-- Comparator B probes at a code with no hysteresis, in TRACK unless it runs in FAST. -/
def Channel.probeAt (x : Channel) (cc code : Nat) : Channel :=
  { x with heldB := true,
           b := (x.b.apply cc (if x.cfg.modeB = .fast then .fast else .track) code 0 false).judge cc }

/-- Comparator B takes the host's settings again. -/
def Channel.releaseB (x : Channel) (cc : Nat) : Channel := ({ x with heldB := false }).restore cc false

/-- Step `step` starts at the tick at `cc`. -/
def Dev.levelStep (d : Dev) (r : LevelRun) (step cc : Nat) : Dev :=
  let chans := r.chans.map fun l => if l.skipped then l else { l with code := l.codeOf step }
  let d1 := d.each chans fun e l => if l.skipped then e else e.updChan l.ch fun x => x.probeAt cc l.code
  (d1.onFw fun w => { w with levels := some { r with step := step, stepFrom := d.tb.frame, chans := chans } }).progress
    r.slot (1000 * (step - 1) / 28)

/-- The search starts at the first tick after acceptance; channels whose comparator B has another use are SKIPPED.
A cancel restores comparator B at the next tick. -/
def Dev.levelTick (d : Dev) (cc : Nat) : Dev :=
  match d.fw.levels with
  | none => d
  | some r =>
    if r.cancelled then
      let d1 := d.each r.chans fun e l => if l.skipped || r.step == 0 then e else e.updChan l.ch fun x => x.releaseB cc
      (d1.onFw fun w => { w with levels := none }).reply r.slot (.fail (failPlain eCancelled))
    else if r.step = 0 ∧ r.stepFrom ≤ d.tb.frame then
      d.levelStep { r with chans := r.chans.map fun l => { l with skipped := (d.chan l.ch).cfg.bFunc != .level } } 1 cc
    else d

/-- THR_A between two levels (R174). -/
def thrBetween (top bot pct : Nat) : Nat := (roundDiv (((top : Int) - bot) * pct) 100 + bot).toNat

/-- HYS_A for a span in codes. -/
def hysFor (span : Nat) : Nat := max 1 (min 63 (span * 3000 / (16384 * 20)))

/-- A search found a signal: 55 codes or more. -/
def LevelSearch.ok (l : LevelSearch) : Bool := !l.skipped && decide (l.bot + 55 ≤ l.top)

/-- The channel after step 28. Tracking starts from the levels of the channel's last AUTO_LEVEL, one that found no signal
among them (R175). -/
def Channel.levelled (x : Channel) (l : LevelSearch) (pct : Nat) (hysAuto : Bool) (cc : Nat) : Channel :=
  if l.skipped then x
  else
    let y := { x with heldB := false, levels := some (l.top, l.bot), levelPct := pct }
    let z := if l.ok then
        { y with cfg := { y.cfg with thrA := thrBetween l.top l.bot pct,
                                     hysA := if hysAuto then hysFor (l.top - l.bot) else y.cfg.hysA } }
      else y
    let w := z.restore cc false
    if l.ok then { w with a := w.a.unsettle cc 375, b := w.b.unsettle cc 375 } else w

/-- The response of AUTO_LEVEL. -/
def LevelSearch.words (l : LevelSearch) (x : Channel) : List Word :=
  [word [(35, 22, l.top), (21, 8, l.bot), (1, 0, if l.skipped then 2 else if l.ok then 0 else 1)],
   word [(35, 22, x.cfg.thrA), (21, 16, x.cfg.hysA)]]

/-- The response over the channels of a search. R174 states no c_top and c_bot of a SKIPPED channel: they are free
values (log 156). -/
def Dev.levelAnswer (d : Dev) : List LevelSearch → List Word × Dev
  | [] => ([], d)
  | l :: ls =>
    if l.skipped then
      let u := d.nextFree
      let v := Config.unstated u.1
      let q := u.2.levelAnswer ls
      ({ l with top := v % 16384, bot := v / 16384 % 16384 }.words (d.chan l.ch) ++ q.1, q.2)
    else
      let q := d.levelAnswer ls
      (l.words (d.chan l.ch) ++ q.1, q.2)

/-- Channels whose settings changed at the tick just past, after their records opened. -/
def Dev.reopenAll (d : Dev) (chs : List Nat) : Dev := d.each chs fun e c => e.updChan c fun x => x.reopen d.tb.frame

/-- AUTO_LEVEL_STEP_END: due at the tick that ends the running step. -/
def Dev.levelStepEnd (d : Dev) : Dev :=
  match d.fw.levels with
  | none => d
  | some r =>
    let cc := d.tb.tickCount
    if r.step = 0 ∨ d.tb.frame < r.stepFrom + r.dwell ∨ r.cancelled then d
    else
      let chans := r.chans.map fun l => if l.skipped then l else l.found r.step (d.chan l.ch).b
      if r.step < 28 then (d.levelStep { r with chans := chans } (r.step + 1) cc).reopenAll (r.chans.map LevelSearch.ch)
      else
        let d1 := (d.each chans fun e l => e.updChan l.ch fun x => x.levelled l r.pct r.hysAuto cc).reopenAll
          (r.chans.map LevelSearch.ch)
        let d2 := (d1.onFw fun w => { w with levels := none }).when (chans.any LevelSearch.ok) Dev.newGeneration
        let q := d2.levelAnswer chans
        q.2.reply r.slot (.ok q.1)

def execAutoLevelStepEnd (s : State) : Host.Outcome State Fault Refusal := doneDev s s.dev.levelStepEnd

/-! ## Level tracking (R175) -/

/-- Channels whose level firmware tracks in the frame in progress: under ADAPT while the Naset is surveying (R416). -/
def Dev.tracked (d : Dev) (c : Nat) : Bool :=
  !d.strict && d.gs.op.running && (d.chan c).levels.isSome && (d.chan c).cfg.bFunc == .level &&
    d.survey.inForce.any fun r => r.item.autoLevel && decide (c ∈ r.item.ch)

/-- The code at which B probes in position p of the cycle. -/
def probeCode (top bot p : Nat) : Nat :=
  min 16383 (if p = 0 then top + 1 else if p = 1 then top else if p = 2 then bot - 1 else bot)

/-- What position p of the cycle showed. -/
def probeFound (top bot p : Nat) (b : Comparator) : Nat × Nat :=
  if p = 0 then (if b.above then (min 16383 (top + 1), bot) else (top, bot))
  else if p = 1 then (if b.above then (top, bot) else (top - 1, bot))
  else if p = 2 then (if b.below then (top, bot - 1) else (top, bot))
  else if b.below then (top, bot) else (top, min 16383 (bot + 1))

/-- A tracked channel at the tick that opens `frame`: the frame that ended is judged, and B takes its next code. A
channel that is tracked no longer has B back. A channel that an AUTO_LEVEL searches is left to it. -/
def Dev.trackTick (d : Dev) (frame cc : Nat) : Dev :=
  d.updChans fun c x =>
    if d.fw.levels.any fun r => r.chans.any fun l => l.ch == c && !l.skipped then x
    else
      let y := match x.levels with
        | some l => if x.heldB then { x with levels := some (probeFound l.1 l.2 ((frame - 1) % 4) x.b) } else x
        | none => x
      match d.tracked c, y.levels with
      | true, some l => y.probeAt cc (probeCode l.1 l.2 (frame % 4))
      | _, _ => if y.heldB then y.releaseB cc else y

/-- AUTO_LEVEL_TRACK_CYCLE, at the tick that ends a cycle of four frames: a level more than 16 codes off takes its
new value at the next tick, as an adaptation. R175 computes THR_A under R174, which sets it for a span of 55 codes or more
only: the model computes it for any span (DESIGN CHOICE, log 166). -/
def Dev.trackCycle (d : Dev) : Dev :=
  if d.tb.frame % 4 = 0 then
    d.each (List.range 96) fun e c =>
      let x := e.chan c
      match e.tracked c, x.levels with
      | true, some l =>
        let t := thrBetween l.1 l.2 x.levelPct
        if 16 < ((t : Int) - x.cfg.thrA).natAbs then e.defer e.nextTick 0 (.thrA c t none true) else e
      | _, _ => e
  else d

def execAutoLevelTrackCycle (s : State) : Host.Outcome State Fault Refusal := doneDev s s.dev.trackCycle

/-! ## The comparators' events -/

def execComparatorAEdge (x : Crossing) (s : State) : Host.Outcome State Fault Refusal := doneDev s (s.dev.edgeA x)

def execComparatorBEdge (x : Crossing) (s : State) : Host.Outcome State Fault Refusal := doneDev s (s.dev.edgeB x)

def execComparatorSettled (ch : Nat) (compB above : Bool) (time : Nat) (s : State) : Host.Outcome State Fault Refusal :=
  doneDev s (s.dev.settled ch compB above time)

def execLineRead (ch : Nat) (codes : List LineCode) (s : State) : Host.Outcome State Fault Refusal :=
  doneDev s (s.dev.lineRead ch codes)

def execStampRetire (ch nowCc : Nat) (parityBad : Bool) (s : State) : Host.Outcome State Fault Refusal :=
  doneDev s (s.dev.stampRetire ch nowCc parityBad)

def execStampCheck (ch nowCc : Nat) (parityGood mismatch : Bool) (codes : Nat) (s : State) :
    Host.Outcome State Fault Refusal :=
  doneDev s (s.dev.stampCheck ch nowCc parityGood mismatch codes)

end Sys2Proof.Machine
end

