-- ==== Sys2Proof/Machine/TimeBase.lean ====
section
/-! DEFINITION. The Meridian time base: warm-up, reference discipline, moves of the scale, CLKOUT, spread and their
commands (05 R113 to R136, 07 R176 to R178, 13 R324). -/

namespace Sys2Proof.Machine

/-! ## Warm-up (R118, R119) -/

/-- The stability test: 60 one-second means within 5 × 10^-9, in 10^-12. -/
def stable (means : List Int) : Bool :=
  means.length == 60 && decide ((minMax means).2 - (minMax means).1 ≤ 5000)

/-- The mean of s over the last second in 10^-12. How it is taken R118 does not say: from the values of s at the ends of the
last 1,000 windows of 1 ms, rounded half up (DESIGN CHOICE, log 163). -/
def TimeBase.steerMean (t : TimeBase) : Int :=
  let l := t.steerPast.take 1000
  roundDiv ((if l = [] then t.steer else sumI l) * 10 ^ 12) ((if l = [] then 1 else l.length) * 2 ^ 48)

/-- The coarse cycle at which the frame in progress ends, as far as the block has come. -/
def Dev.frameEnd (d : Dev) : Nat :=
  match d.survey.frames with
  | i :: _ => i.tick + i.length
  | [] => d.tb.tickCount

/-- The frame in progress reaches a multiple of 2,500,000,000 that is not evaluated yet, or a move has passed one. Multiples
are those of the extended count (DESIGN CHOICE, log 142). -/
def Dev.evaluationDue (d : Dev) : Bool := d.tb.running && decide ((d.tb.evaluated + 1) * 2500000000 < d.frameEnd)

/-- STABILITY_EVALUATION. With REF_IN present as the source the mean is that of the steering word; else `mean` is that of
the interval counters. -/
def TimeBase.evaluate (t : TimeBase) (mean : Int) : TimeBase :=
  let means := ((if t.refPresent && t.cfg.refSrc == 1 then t.steerMean else mean) :: t.means).take 60
  let n := t.evaluated + 1
  { t with means := means, evaluated := n,
           warmNext := t.ocxoWarm && decide (t.warmSince + 60 ≤ n) && stable means }

def execStabilityEvaluation (mean : Int) (s : State) : Host.Outcome State Fault Refusal :=
  doneDev s (if s.dev.evaluationDue then s.dev.onTb fun t => t.evaluate mean else s.dev)

/-- A rise starts the 60 s; a fall makes its frame one with TB_WARM = 0. -/
def TimeBase.ocxo (t : TimeBase) (level : Bool) : TimeBase :=
  if level then
    if t.ocxoWarm then t else { t with ocxoWarm := true, warmSince := if t.running then t.evaluated + 1 else 0 }
  else { t with ocxoWarm := false, ocxoFell := t.ocxoFell || t.ocxoWarm, warmNext := false }

def execOcxoWarmChange (level : Bool) (s : State) : Host.Outcome State Fault Refusal :=
  doneDev s ((s.dev.onTb fun t => t.ocxo level).when (s.dev.tb.ocxoWarm && !level) fun d =>
    d.markFrame fun i => { i with cold := true })

/-- TB_WARM at a tick. -/
def Dev.warmTick (d : Dev) : Dev :=
  let w := d.tb.warmNext && !d.tb.ocxoFell
  (d.onTb fun t => { t with warm := w, ocxoFell := false }).markFrame fun i => { i with cold := !w }

/-! ## The ADPLLs (R113 to R115) -/

def TimeBase.pll (t : TimeBase) : Adpll → Pll
  | .meridian => t.meridian
  | .engine => t.engine
  | .store => t.store
  | .chart => t.chart

def TimeBase.setPll (t : TimeBase) (p : Adpll) (x : Pll) : TimeBase :=
  match p with
  | .meridian => { t with meridian := x }
  | .engine => { t with engine := x }
  | .store => { t with store := x }
  | .chart => { t with chart := x }

/-- LAST_LOSS of GET_TIMEBASE. -/
def adpllCode (p : Adpll) : Nat :=
  match p with
  | .meridian => 0
  | .engine => 1
  | .store => 2
  | .chart => 3

/-- The setting on which the target frequency of an ADPLL depends: for the Chart PLL its mode and link rate. -/
def Dev.pllSetting (d : Dev) (p : Adpll) : Nat :=
  let c := d.cap.chart
  if p = .chart then
    match c.change.filter fun m => m.step != 0 with
    | some m => m.mode * 4 + m.rate
    | none => c.mode * 4 + c.rate
  else 0

/-- The fractional offset that a walk lays on the DCO, as a fraction: -y, since the scale runs slower where Δ is positive
(R126). The target of the lock counter goes by s alone (R115). -/
def TimeBase.walkOffset (t : TimeBase) : Int × Nat :=
  match t.walk with
  | some w => if w.from_ ≤ t.frame ∧ t.frame < w.from_ + w.total then (-w.delta, w.length) else (0, 1)
  | none => (0, 1)

/-- DCO cycles over n reference cycles at the target frequency, rounded to an integer. -/
def Dev.dcoCycles (d : Dev) (p : Adpll) (n : Nat) : Int :=
  match p with
  | .meridian => roundDiv (100 * n * (2 ^ 48 + d.tb.steer)) (2 ^ 48)
  | _ => roundDiv (Config.dcoHz (adpllCode p) (d.pllSetting p) * n : Nat) 2500000000

/-- The target of the lock counter: over 2^20 reference cycles, or while spread is applied over 64 modulation periods, with
the mean of a modulation below the nominal frequency taken off (DEDUCED, log 141). -/
def Dev.lockTarget (d : Dev) (p : Adpll) : Int :=
  let x := d.tb.pll p
  if p ≠ .meridian ∧ x.spreading d.tb.now then
    let m := if x.spread.mode = 0 then x.spreadBefore else x.spread
    roundDiv (Config.dcoHz (adpllCode p) (d.pllSetting p) * (64 * (20000 - (m.below - m.above))) : Nat) (m.rate * 100 * 20000)
  else d.dcoCycles p (2 ^ 20)

/-- A binary search of n steps for the highest code at which a count stays within the target. -/
def searchCode (count : Nat → Nat) (target : Int) : Nat → Nat → Nat
  | 0, code => code
  | n + 1, code => searchCode count target n (if (count (code + 2 ^ n) : Int) ≤ target then code + 2 ^ n else code)

/-- An ADPLL searches its band, with the fine code in the middle, and then its fine code (R115). -/
def Dev.acquire (d : Dev) (p : Adpll) : Dev :=
  let u := d.nextFree
  let count := Config.dcoCount u.1 (adpllCode p)
  let target := d.dcoCycles p (2 ^ 10)
  let band := searchCode (fun b => count b 2048) target 5 0
  let fine := searchCode (count band) target 12 0
  u.2.onTb fun t => t.setPll p { t.pll p with band := band, fine := fine }

/-! ## The outer loop (R120 to R124) -/

/-- The reference period in gr. -/
def TbCfg.period (c : TbCfg) : Nat := if c.ref100MHz then 102400 else 1024000

/-- A time less the nearest grid time. -/
def toGrid (x : Int) (period : Nat) : Int := (x + period / 2) % period - period / 2

/-- The range of s: ±25 × 10^-6 in units of 2^-48. -/
def steerMax : Int := 7036874417

/-- The outer loop steers. -/
def TimeBase.steering (t : TimeBase) : Bool := t.cfg.refSrc != 0 && !t.holdover

/-- The time from one phase error to the next, in gr: the period of REF_IN, or a frame for SYNC. -/
def TimeBase.errorStep (t : TimeBase) : Nat := if t.cfg.refSrc = 2 then 2 ^ t.k * 4096 else t.cfg.period

/-- ω² e T in 2^-96, of an error e in gr: what it adds to the integral of a loop of natural frequency ω. -/
def TimeBase.loopI (t : TimeBase) (dev : Int) : Int :=
  roundDiv (dev * (Config.loopOmega t.cfg.outerBw) ^ 2 * t.errorStep * 9765625 ^ 2 * 2 ^ 96) (10 ^ 58)

/-- 2 ζ ω e in 2^-96, with damping ζ = 1. -/
def TimeBase.loopP (t : TimeBase) (dev : Int) : Int :=
  roundDiv (2 * dev * Config.loopOmega t.cfg.outerBw * 9765625 * 2 ^ 96) (10 ^ 29)

/-- A value between -m and m. -/
def within (m x : Int) : Int := max (-m) (min m x)

/-- The proportional-integral loop acts on an error less its setpoint: an edge that comes late on the scale makes the scale
run slower. The rounding, and an integral that stops at the range of s, are DESIGN CHOICE, log 17. -/
def TimeBase.steerOn (t : TimeBase) (dev : Int) : TimeBase :=
  let i := t.integral - t.loopI dev
  let s := roundDiv (i - t.loopP dev) (2 ^ 48)
  let lim := decide (s < -steerMax ∨ steerMax < s)
  { t with
    integral := within (steerMax * 2 ^ 48) i
    steer := within steerMax s
    steerLimit := lim
    refLocked := t.refLocked && !lim && decide (dev.natAbs ≤ 10240)
    windowBad := t.windowBad || lim || decide (1024 < dev.natAbs)
    lockedWindows := if lim ∨ 10240 < dev.natAbs then 0 else t.lockedWindows }

/-- The mean of s over the 10 s before; the value in force if the reference has not steered. -/
def TimeBase.held (t : TimeBase) : Int :=
  if t.steered && !t.steerPast.isEmpty then roundDiv (sumI t.steerPast) t.steerPast.length else t.steer

/-- Entry to holdover: a walk stops where it stands (R128). -/
def Dev.enterHoldover (d : Dev) : Dev :=
  let d1 := d.onTb fun t =>
    { t with steer := t.held, holdover := true, refLocked := false, lockedWindows := 0, returnErrors := [],
             returnDue := none, walk := none, walking := false, steerLimit := false }
  ((d1.markFrame fun i => { i with holdover := true }).setFlag flagHoldover).pulse 348

/-- REF_PRESENT falls. -/
def Dev.loseRef (d : Dev) : Dev :=
  let d1 := d.onTb fun t =>
    { t with refPresent := false, goodWindows := 0, refLocked := false, returnErrors := [], returnDue := none }
  if d1.tb.steering then d1.enterHoldover else d1

/-- REF_PRESENT rises: the second of R125 starts. -/
def TimeBase.present (t : TimeBase) : TimeBase :=
  if t.refPresent then t else { t with refPresent := true, returnErrors := [] }

/-- A phase error measured with setpoint 0, and the same against the setpoint in force. -/
def TimeBase.phase (t : TimeBase) (err dev : Int) : TimeBase :=
  if t.steering then t.steerOn dev
  else if t.holdover && t.refPresent && t.returnDue.isNone then { t with returnErrors := err :: t.returnErrors }
  else t

/-- The stamp that path p (0 REF_IN, 1 SYNC_IN, 2 SYNC_OUT) makes of the readings of an edge by its four active lines, in
QUAD (R64, R65, R121): by the tables of the frame in progress, or of the one before for an edge dealt in that. Readings by
other lines are none of an edge. -/
def TimeBase.pathStamp (t : TimeBase) (p : Nat) (codes : List LineCode) : Option Nat :=
  let ls := codes.map LineCode.line
  let old := ls == activeLines (shadowLine t.before)
  if ls == activeLines (shadowLine t.frame) || old then
    let times := codes.map fun c =>
      (c.count : Int) * 65536 - (((t.paths.getD p []).getD c.line Line.reset).lut old c.tap)
    some (meanTime (assemble times).used).toNat
  else none

/-- An edge of REF_IN stamped: it joins its window, and where REF_IN is the source its phase error acts. -/
def TimeBase.refStamp (t : TimeBase) (stamp : Nat) : TimeBase :=
  let u := { t with windowEdges := stamp :: t.windowEdges, lastEdge := some stamp }
  if t.cfg.refSrc = 1 then u.phase (toGrid stamp t.cfg.period) (toGrid (stamp - t.refPhase) t.cfg.period) else u

/-- REF_EDGE. -/
def TimeBase.refEdge (t : TimeBase) (codes : List LineCode) : TimeBase :=
  match t.pathStamp 0 codes with
  | some x => t.refStamp x
  | none => t

def execRefEdge (codes : List LineCode) (s : State) : Host.Outcome State Fault Refusal :=
  doneDev s (if s.dev.tb.running then s.dev.onTb fun t => t.refEdge codes else s.dev)

/-- The least-squares slope of stamps over their index as a fraction (R159). -/
def slope (ts : List Int) : Int × Int :=
  let n : Int := ts.length
  let si := n * (n - 1) / 2
  let si2 := (n - 1) * n * (2 * n - 1) / 6
  let sit := sumI (ts.zipIdx.map fun x => (x.2 : Int) * x.1)
  (n * sit - si * sumI ts, n * si2 - si * si)

/-- A window lies within ±50 × 10^-6 of the declared period (R121). -/
def windowGood (edges : List Nat) (period : Nat) : Bool :=
  match edges with
  | [] => false
  | e :: _ =>
    let q := slope (edges.map fun (t : Nat) => (t : Int) - e)
    decide (2 ≤ edges.length) && decide ((q.1 - period * q.2).natAbs * 20000 ≤ (period * q.2).toNat)

/-- The lock count of a window (R122). -/
def TimeBase.lockWindow (t : TimeBase) : TimeBase :=
  let n := if t.steering && !t.windowBad then t.lockedWindows + 1 else 0
  { t with lockedWindows := n, refLocked := t.refLocked || decide (10000 ≤ n), windowEdges := [], windowBad := false,
           steerPast := (t.steer :: t.steerPast).take 10000 }

/-- REF_WINDOW_END. -/
def Dev.refWindowEnd (d : Dev) : Dev :=
  let d1 :=
    if d.tb.cfg.refSrc = 2 then d
    else if windowGood d.tb.windowEdges.reverse d.tb.cfg.period then
      d.onTb fun t =>
        let u := { t with goodWindows := min 4 (t.goodWindows + 1) }
        if 4 ≤ u.goodWindows then u.present else u
    else if d.tb.refPresent then d.loseRef
    else d.onTb fun t => { t with goodWindows := 0 }
  d1.onTb TimeBase.lockWindow

def execRefWindowEnd (s : State) : Host.Outcome State Fault Refusal :=
  doneDev s (if s.dev.tb.running then s.dev.refWindowEnd else s.dev)

/-- No rising edge of REF_IN comes for four declared periods that end within the frame in progress (R121). -/
def Dev.edgeMissing (d : Dev) : Bool :=
  match d.tb.lastEdge with
  | some e => decide (e + 4 * d.tb.cfg.period < d.frameEnd * 4096)
  | none => true

def execRefAbsent (s : State) : Host.Outcome State Fault Refusal :=
  doneDev s (if s.dev.tb.running && s.dev.tb.cfg.refSrc != 2 && s.dev.edgeMissing then s.dev.loseRef else s.dev)

/-- REF_RETURN (R125): the offset is measured; an offset out of range refuses the return. -/
def Dev.refReturn (d : Dev) : Dev :=
  let t := d.tb
  if t.holdover && t.refPresent && !t.returnErrors.isEmpty && t.returnDue.isNone then
    let m := roundDiv (sumI t.returnErrors) t.returnErrors.length
    if t.cfg.refSrc = 2 ∧ 2 ^ 31 < m.natAbs then (d.onTb fun u => { u with returnErrors := [] }).pulse 382
    else d.onTb fun u => { u with returnDue := some m, returnErrors := [] }
  else d

def execRefReturn (s : State) : Host.Outcome State Fault Refusal := doneDev s s.dev.refReturn

/-! ## Moves of the scale (R127, R141, R178) -/

/-- Δ_c. -/
def coarsePart (delta : Int) : Int := roundDiv delta 4096

/-- Δ_f: by so much every later DCO edge is delayed. -/
def finePart (delta : Int) : Int := delta - 4096 * coarsePart delta

/-- The part of a move of m bearing steps, one per DCO cycle, that is made t gr after its start. -/
def moved (m t : Int) : Int := if m < 0 then -(min (-m) (max 0 (t / 1024))) else min m (max 0 (t / 1024))

/-- By how much the moves of the scale have delayed the DCO edges at a time (R127). -/
def TimeBase.dcoDelay (t : TimeBase) (time : Nat) : Int := t.dcoShift + moved t.dcoMove ((time : Int) - t.dcoFrom)

/-- An output's times on the lowered scale: the DCO edges stay where they are. -/
def ClkLive.lower (x : ClkLive) (g : Int) : ClkLive :=
  { x with anchor := x.anchor - g, moveAt := x.moveAt - g, notBefore := x.notBefore - g, lowUntil := x.lowUntil - g,
           oldHigh := x.oldHigh.map fun h => (h.1 - g, h.2 - g) }

/-- n less an integer, on the extended scale. -/
def lower (n : Nat) (x : Int) : Nat := ((n : Int) - x).toNat

/-- The times that firmware and hardware hold, moved with the scale. -/
def Comparator.lower (x : Comparator) (dc : Int) : Comparator :=
  { x with settleEnd := Machine.lower x.settleEnd dc, judgeFrom := Machine.lower x.judgeFrom (4096 * dc) }

def Edge.capAt (e : Edge) (f : Nat) : Edge := { e with cap := some (min f (e.cap.getD f)) }

/-- Stamps made already of the frame after f, by times that a move has taken from under them, stay with frame f (R127). -/
def Channel.foldBack (x : Channel) (f : Nat) : Channel :=
  let r := x.record (f + 1)
  (x.updRec f fun q =>
    { q with stamps := q.stamps ++ r.stamps, offPin := q.offPin ++ r.offPin, disagree := q.disagree + r.disagree,
             quadEdges := q.quadEdges + r.quadEdges, lineStar := q.lineStar.mapNum fun l n => n + r.lineStar.getD l 0 }).updRec
    (f + 1) fun q => { q with stamps := [], offPin := [], disagree := 0, quadEdges := 0, lineStar := List.replicate 5 0 }

def Channel.lower (x : Channel) (dc : Int) (f : Nat) : Channel :=
  { x.foldBack f with
           localCount := Machine.lower x.localCount dc, localAt := Machine.lower x.localAt dc,
           badCycle := x.badCycle.map fun n => Machine.lower n dc, a := x.a.lower dc, b := x.b.lower dc, fifoAt := Machine.lower x.fifoAt dc,
           inLines := x.inLines.map fun e => { e with at_ := Machine.lower e.at_ (4096 * dc) },
           fifo := x.fifo.map fun e => e.capAt f, assembled := x.assembled.map fun e => e.capAt f }

/-- The boundaries of a modulation stay where they are (R134). -/
def Pll.lower (p : Pll) (dc : Int) : Pll := { p with rampFrom := Machine.lower p.rampFrom dc }

/-- The tick that opened the frame in progress moves by -Δ_c, and every held time with it. `length` is the length of
the frame. -/
def Dev.move (d : Dev) (delta : Int) (kind : Nat) : Dev :=
  let dc := coarsePart delta
  let count := lower d.tb.tickCount dc
  let d1 := d.onTb fun t =>
    { (t.advance count) with
      tickCount := count
      engine := t.engine.lower dc
      store := t.store.lower dc
      chart := t.chart.lower dc
      clkLive := t.clkLive.map fun x => x.lower (4096 * dc)
      windowEdges := t.windowEdges.map fun e => lower e delta
      lastEdge := t.lastEdge.map fun e => lower e delta
      dcoShift := t.dcoShift + t.dcoMove
      dcoMove := finePart delta
      dcoFrom := count * 4096
      align := { t.align with lastEcho := lower t.align.lastEcho (4096 * dc)
                              measure := t.align.measure.map fun m => { m with launch := lower m.launch (4096 * dc) } } }
  let d2 := d1.updChans fun _ x => x.lower dc (d.tb.frame - 1)
  let d3 := d2.onSurvey fun s =>
    { s with lines := s.lines.map fun l =>
        { l with due := l.due.map fun x => lower x dc, ends := l.ends.map fun x => lower x dc } }
  (d3.markFrame fun i => { i with tick := count, moved := true, length := ((i.length : Int) + dc).toNat }).log 0x8 kind
    d.tb.frame dc

/-- A coarse wrap would fall strictly inside the frame in progress if a STEP moved the scale by -Δ at its tick: between the
loaded count and the nominal count of the next tick. -/
def Dev.wrapInside (d : Dev) (delta : Int) : Bool :=
  let tick : Int := d.tb.tickCount
  decide ((tick - coarsePart delta) / 2 ^ 48 < tick / 2 ^ 48)

/-- A STEP at the tick just past. With REF_SRC = REF_IN it discards an alignment (R143). -/
def Dev.stepMove (d : Dev) (delta : Int) : Dev :=
  ((d.move delta 0).markFrame fun i => { i with refStep := true }).onTb fun t =>
    { t with syncAligned := t.syncAligned && t.cfg.refSrc != 1 }

/-- The walk of R126 over J frames; none if nothing is left to walk. -/
def walkFrames (delta : Int) (rate k : Nat) : Nat :=
  -- |Δ| × 97.65625 fs over SLEW_RATE ps/s × 2^k × 400 ps, both in 10^-24 s
  ceilDiv (delta.natAbs * 9765625 * 10 ^ 4) (rate * 2 ^ k * 400)

def TimeBase.startWalk (t : TimeBase) (delta : Int) : TimeBase :=
  let j := walkFrames delta t.cfg.slewRate t.k
  if j = 0 then { t with refPhase := 0, walk := none, walking := false }
  else
    { t with refPhase := delta, walking := true
             walk := some { from_ := t.frame, total := j, delta := delta, rest := 0, length := j * 2 ^ t.k * 4096, atReturn := false } }

/-- JUMP and SLEW_RATE in force from the tick just past: those of the last change that is due at it (R125). -/
def Dev.policyNow (d : Dev) : Nat × Nat :=
  (d.fw.deferred.filter fun e => e.tick ≤ d.tb.frame).foldl (fun p e => match e.effect with
    | .refPolicy j r => (j, r)
    | .loadSettings _ x _ => (x.tb.jump, x.tb.slewRate)
    | _ => p) (d.tb.cfg.jump, d.tb.cfg.slewRate)

/-- The policy in force acts on an offset Δ at the tick just past. `true` where the move waits for the next tick. -/
def Dev.jump (d : Dev) (delta : Int) : Dev × Bool :=
  if d.tb.cfg.jump = 0 then (d.onTb fun t => { t with refPhase := delta, walk := none, walking := false }, false)
  else if d.tb.cfg.jump = 1 then (d.onTb fun t => t.startWalk delta, false)
  else if d.wrapInside delta then (d, true)
  else ((d.onTb fun t => { t with refPhase := 0, walk := none, walking := false }).stepMove delta, false)

/-- Tick Q of a return (R125): the policy in force at it acts, and frame Q is no frame of holdover. -/
def Dev.returnTick (d : Dev) : Dev :=
  match d.tb.returnDue with
  | none => d
  | some delta =>
    let p := d.policyNow
    let r := (d.onTb fun t => { t with cfg := { t.cfg with jump := p.1, slewRate := p.2 } }).jump delta
    if r.2 then d
    else (((r.1.onTb fun t =>
      { t with returnDue := none, holdover := false, steered := true, lockedWindows := 0, windowBad := false,
               integral := t.steer * 2 ^ 48, walk := t.walk.map fun w => { w with atReturn := true } }).markFrame fun i => { i with holdover := false }).setFlag flagRefReturned).pulse 349

/-- The remaining offset of a walk at frame f. -/
def Walk.left (w : Walk) (f : Nat) : Int :=
  roundDiv (w.delta * (w.from_ + w.total - min f (w.from_ + w.total) : Nat)) w.total

/-- A walk at a tick: REF_PHASE moves with it, and the frame carries REF_STEP until the walk's last. -/
def Dev.walkTick (d : Dev) : Dev :=
  match d.tb.walk with
  | none => d
  | some w =>
    (d.onTb fun t => { t with refPhase := w.rest + w.left t.frame }).when (d.tb.frame < w.from_ + w.total) fun e =>
      e.markFrame fun i => { i with refStep := true }

/-- REF_WALK_END: the walk has reached tick Q + J. -/
def TimeBase.walkEnd (t : TimeBase) : TimeBase :=
  match t.walk with
  | none => t
  | some w => if w.from_ + w.total ≤ t.frame then { t with walk := none, walking := false, refPhase := w.rest } else t

def execRefWalkEnd (s : State) : Host.Outcome State Fault Refusal := doneDev s (s.dev.onTb TimeBase.walkEnd)

/-! ## Settings at a tick (R120, R128) -/

/-- SET_TIMEBASE at its tick. With NONE the frame that the tick opens is no frame of holdover. -/
def Dev.applyTimebase (d : Dev) (c : TbCfg) : Dev :=
  let old := d.tb.cfg
  let src := old.refSrc != c.refSrc || old.ref100MHz != c.ref100MHz
  let sync := (old.refSrc == 2) != (c.refSrc == 2) || old.ref100MHz != c.ref100MHz
  let d1 := d.onTb fun t => { t with cfg := { c with jump := old.jump, slewRate := old.slewRate } }
  if !src then d1
  else
    let d2 := d1.onTb fun t =>
      { t with
        refLocked := false
        refPresent := t.refPresent && !sync
        goodWindows := if sync then 0 else t.goodWindows
        windowEdges := if sync then [] else t.windowEdges
        returnErrors := []
        returnDue := none
        lockedWindows := 0
        align := { t.align with validRun := 0 } }
    if c.refSrc = 0 then
      (d2.onTb fun t => { t with holdover := false, walk := none, walking := false, steerLimit := false }).markFrame fun i =>
        { i with holdover := false }
    else if d2.tb.holdover then d2
    else d2.enterHoldover

/-- SET_REF_POLICY at its tick: on a walk it acts on what remains, also on one that an earlier SET_REF_POLICY has begun anew at
this tick. A walk that begins with a return at this tick is that of the policy in force at it (R125). `true` where a STEP waits a tick. The frame that opens at a tick at which ABSORB ends a walk keeps
its REF_STEP, of which R128 does not speak (DESIGN CHOICE, log 164). -/
def Dev.applyRefPolicy (d : Dev) (jump rate : Nat) : Dev × Bool :=
  let d1 := d.onTb fun t => { t with cfg := { t.cfg with jump := jump, slewRate := rate } }
  match d.tb.walk with
  | none => (d1, false)
  | some w =>
    if w.atReturn ∧ w.from_ = d.tb.frame then (d1, false)
    else
      let r := d1.jump (w.rest + w.left d.tb.frame)
      if r.2 then (d, true) else r

/-! ## k (R176) -/

/-- The tick at which a new k applies. -/
def Dev.tickOfK (d : Dev) (k : Nat) : Nat :=
  let n := d.tb.nominal d.nextTick
  d.nextTick + ((2 ^ k - n % 2 ^ k) % 2 ^ k) / 2 ^ d.tb.k

/-- A pending k at the tick just past. -/
def Dev.kTick (d : Dev) : Dev :=
  match d.tb.pendingK with
  | none => d
  | some p =>
    let k := p.k
    if k = d.tb.k then (d.onTb fun t => { t with pendingK := none }).when p.counts Dev.newGeneration
    else if d.tb.tickCount % 2 ^ k = 0 then
      let d1 := d.onTb fun t =>
        { t with k := k, pendingK := none, anchorFrame := t.frame, anchorCount := t.tickCount, anchorK := k }
      ((d1.markFrame fun i => { i with k := k, length := 2 ^ k }).log 0x7 (k * 65536 + d.tb.tickCount / 2 ^ 48 % 65536) d.tb.frame
        (d.tb.tickCount % 2 ^ 48 : Nat)).when p.counts Dev.newGeneration
    else d

/-! ## CLKOUT (R129 to R132) -/

/-- H_act, V_act, V_tot, pixel clock in 10 kHz. -/
structure Timing where
  h : Nat
  v : Nat
  vTot : Nat
  clock : Nat
  deriving DecidableEq, Repr

def timings : List Timing :=
  [⟨0, 0, 0, 0⟩, ⟨1024, 768, 806, 6500⟩, ⟨1280, 720, 750, 7425⟩, ⟨1920, 1080, 1125, 14850⟩, ⟨2560, 1440, 1481, 24150⟩,
   ⟨3840, 2160, 2250, 29700⟩, ⟨3840, 2160, 2250, 59400⟩]

def timingOf (mode : Nat) : Timing := timings.getD mode ⟨0, 0, 0, 0⟩

/-- The clock of a source that is not the Meridian, in Hz: the Survey clock, the DRAM controller clock and the pixel clock of a
Chart mode. -/
def sourceHz (source mode : Nat) : Nat := [0, 1600000000, Config.storeHz, (timingOf mode).clock * 10000].getD source 0

/-- The period of an output with SOURCE = MERIDIAN, and how long it is high in it, in gr. -/
def Clkout.period (c : Clkout) : Nat := c.n * 1024

/-- The period of an output in gr, with the Chart port in a mode: that of the nominal frequency, rounded up. -/
def Clkout.periodIn (c : Clkout) (mode : Nat) : Nat :=
  if c.source = 0 then c.period else ceilDiv (c.n * 10240000000000) (sourceHz c.source mode)

def Clkout.highTime (c : Clkout) : Nat := (c.n + 1) / 2 * 1024

/-- Where the grid of an output stands at a time: t_0 less the bearing steps that are still to run then. -/
def ClkLive.origin (x : ClkLive) (time : Int) : Int :=
  x.anchor + x.cfg.coarse * 1024 + x.cfg.fine - (x.moveLeft - moved x.moveLeft (time - x.moveAt))

/-- The output has a grid of Meridian edges. -/
def ClkLive.hasGrid (x : ClkLive) : Bool := x.committed && x.cfg.enable && x.cfg.source == 0 && decide (0 < x.cfg.n)

/-- The last rising edge of the grid before a time. -/
def ClkLive.lastEdge (x : ClkLive) (time : Int) : Option Int :=
  let p := x.cfg.period
  let t0 := x.origin time
  let r := t0 + (time - 1 - t0) / p * p
  if x.hasGrid && decide (t0 < time) && decide (x.notBefore ≤ r) then some r else none

/-- The first rising edge of the grid at or after a time. -/
def ClkLive.nextEdge (x : ClkLive) (time : Int) : Option Int :=
  let p := x.cfg.period
  let t0 := x.origin time
  let low := max time x.notBefore
  if x.hasGrid then some (if low ≤ t0 then t0 else t0 + (low - t0 + p - 1) / p * p) else none

/-- The last rising edge before a time of an output as it was, with its period and the end of its high phase (R131). An output
from a source that is not the Meridian has edges, where it `runs`, of no stated phase and duty: `u` is a free value (log 169). -/
def ClkLive.lastRise (x : ClkLive) (time : Int) (mode : Nat) (runs : Bool) (u : Nat) : Option (Int × Nat × Int) :=
  let p := x.cfg.periodIn mode
  if x.cfg.source = 0 then (x.lastEdge time).map fun r => (r, p, r + x.cfg.highTime)
  else if runs then
    let r := time - 1 - (u % p : Nat)
    some (r, p, r + (u / p % p : Nat))
  else none

/-- A commit at a tick (R131): the last edge `last` of the old grid keeps its high phase, and the new grid begins no sooner than
a period of the old after it, or than an earlier commit left it. An output turned off, though it may have had no edge yet, is low
for half its `period` after that high phase. -/
def ClkLive.commit (x : ClkLive) (time : Int) (c : Clkout) (period : Nat) (last : Option (Int × Nat × Int)) : ClkLive :=
  let high := match last with
    | some l => some (l.1, l.2.2)
    | none => x.oldHigh
  let highEnd := match high with
    | some h => max time h.2
    | none => time
  { cfg := c, anchor := time, committed := true, driven := x.driven || c.enable, moveLeft := 0, moveAt := time, stopped := false, oldHigh := high
    notBefore := match last with
      | some l => max time (l.1 + l.2.1)
      | none => max time x.notBefore
    lowUntil :=
      if c.enable then time
      else if x.cfg.enable then max x.lowUntil (highEnd + (period / 2 : Nat))
      else max highEnd x.lowUntil }

/-- What is at an output's balls (R129 to R131, R135, R136). The edges of a source that is not the Meridian have no stated
phase: the output runs from its ADPLL, or from the bypass path. -/
inductive Pin
  | released | low | high | adpll | bypass
  deriving DecidableEq, Repr

/-- An output at a time, by the ADPLL that is its source. -/
def ClkLive.pin (x : ClkLive) (pll : Pll) (time : Int) : Pin :=
  if (x.oldHigh.any fun h => decide (h.1 ≤ time ∧ time < h.2)) then .high
  else if x.stopped then .low
  else if !x.driven then .released
  else if !x.cfg.enable then (if decide (time < x.lowUntil) || x.cfg.idleLow then .low else .released)
  else if x.cfg.source ≠ 0 then
    (if time < x.notBefore then .low else if pll.reacquiring then (if x.cfg.keepAlive then .bypass else .low) else .adpll)
  else match x.lastEdge (time + 1) with
    | some r => if time < r + x.cfg.highTime then .high else .low
    | none => .low

/-- The ADPLL that SOURCE names. -/
def TimeBase.sourcePll (t : TimeBase) (source : Nat) : Pll :=
  match source with
  | 0 => t.meridian
  | 1 => t.engine
  | 2 => t.store
  | _ => t.chart

/-- Output o at a time. With MODE = OFF an output from CHART is stopped, after any high phase (R258, R135). -/
def Dev.clkout (d : Dev) (o : Nat) (time : Int) : Pin :=
  let x := d.tb.clkLive.getD o ClkLive.reset
  let p := x.pin (d.tb.sourcePll x.cfg.source) time
  if x.cfg.source = 3 ∧ d.cap.chart.mode = 0 ∧ (p = .adpll ∨ p = .bypass) then .low else p

/-- The outputs that run from a source other than the Meridian are stopped, after any high phase in progress (R135): those
without KEEP_ALIVE, or `all`. -/
def Dev.stopOutputs (d : Dev) (source : Nat) (all : Bool) : Dev :=
  let t : Int := d.tb.now * 4096
  let mode := d.cap.chart.mode
  d.each (List.range 4) fun e o =>
    let x := e.tb.clkLive.getD o ClkLive.reset
    let p := e.clkout o t
    if x.cfg.source = source ∧ (p = .adpll ∨ p = .bypass) ∧ (all || !x.cfg.keepAlive) then
      let u := e.nextFree
      u.2.onTb fun b =>
        { b with clkLive := b.clkLive.modify o fun y =>
            { y with oldHigh := (y.lastRise t mode true (Config.unstated u.1)).map fun l => (l.1, l.2.2) } }
    else e

/-- FINE_DLY plus S. -/
def Clkout.bearing (c : Clkout) (s : Int) : Clkout := { c with fine := ((c.fine : Int) + s).toNat }

/-- The bearing steps that have not run by a time. -/
def ClkLive.runTo (x : ClkLive) (time : Int) : ClkLive :=
  { x with moveLeft := x.moveLeft - moved x.moveLeft (time - x.moveAt), moveAt := time }

/-- A loss of MERIDIAN_LOCK at a time: a MERIDIAN output ends its high phase and stays low until a commit; one that an earlier setting left running is not cut short (R136). -/
def ClkLive.loseMeridian (x : ClkLive) (time : Int) : ClkLive :=
  if x.hasGrid then
    { x with committed := false, stopped := true,
             oldHigh := match x.lastEdge (time + 1) with
               | some r => some (r, r + x.cfg.highTime)
               | none => x.oldHigh }
  else x

/-- Output o takes a committed setting at the tick just past. -/
def Dev.commitOutput (d : Dev) (o : Nat) (c : Clkout) : Dev :=
  let u := d.nextFree
  let t := u.2.tb.tickTime
  let runs := d.clkout o (t - 1) == .adpll || d.clkout o (t - 1) == .bypass
  u.2.onTb fun b =>
    { b with clkLive := b.clkLive.modify o fun x =>
        x.commit t c (x.cfg.periodIn d.cap.chart.mode) (x.lastRise t d.cap.chart.mode runs (Config.unstated u.1)) }

/-- The outputs at the tick just past: S goes to the live setting and to those that pending commits hold, and the commits that
are due apply. The staged setting takes S with the effects of the tick (R297). -/
def Dev.clockTick (d : Dev) : Dev :=
  let f := d.tb.frame
  let steps := d.tb.bearings.filter fun b => b.1 ≤ f
  let commits := d.tb.commits.map fun c =>
    (c.1, c.2.1, c.2.2.bearing (sumI ((steps.filter fun b => b.2.1 == c.2.1).map fun b => b.2.2)))
  let d1 := d.onTb fun t =>
    { t with
      clkLive := steps.foldl (fun l b => l.modify b.2.1 fun x => { x with cfg := x.cfg.bearing b.2.2, moveLeft := x.moveLeft + b.2.2 })
        (t.clkLive.map fun x => x.runTo t.tickTime)
      bearings := t.bearings.filter fun b => f < b.1
      commits := commits.filter fun c => f < c.1 }
  d1.each (commits.filter fun c => c.1 ≤ f) fun e c => e.commitOutput c.2.1 c.2.2

/-! ## Commands (R324) -/

/-- REF_SRC with every accepted change. -/
def Dev.committedSrc (d : Dev) : Nat :=
  d.fw.deferred.foldl (fun s e => match e.effect with
    | .timebase c => c.refSrc
    | .loadSettings _ b _ => b.tb.refSrc
    | _ => s) d.tb.cfg.refSrc

/-- k in force or pending lies above 20. -/
def Dev.kAbove20 (d : Dev) : Bool :=
  decide (20 < d.tb.k) || (match d.tb.pendingK with | some p => decide (20 < p.k) | none => false)

def Cmd.tbCfg (c : Cmd) (old : TbCfg) : TbCfg :=
  { old with refSrc := c.f 1 1 0, ref100MHz := c.b 1 2, outerBw := c.f 1 5 3, innerBw := c.f 1 7 6 }

def mbSetTimebase : MbCommand :=
  onDev (form 0x201 [1]) (fun _ => [[(7, 0)]])
    (fun c => faultsOf [(1, c.f 1 1 0 == 3 || c.f 1 5 3 == 7)]) fun d c =>
    if c.f 1 1 0 = 2 ∧ d.kAbove20 then (d, .fail (failAt eParam 1))
    else d.deferNext c (.timebase (c.tbCfg d.tb.cfg)) []

def execSetTimebase (slot : SlotId) (s : State) : Host.Outcome State Fault Refusal := done (s.accept slot mbSetTimebase)

def mbSetRefPolicy : MbCommand :=
  onDev (form 0x202 [1]) (fun _ => [[(13, 0)]])
    (fun c => faultsOf [(1, c.f 1 1 0 == 3 || c.f 1 13 2 == 0 || decide (1000 < c.f 1 13 2))]) fun d c =>
    d.deferNext c (.refPolicy (c.f 1 1 0) (c.f 1 13 2)) []

def execSetRefPolicy (slot : SlotId) (s : State) : Host.Outcome State Fault Refusal := done (s.accept slot mbSetRefPolicy)

def Cmd.clkout (c : Cmd) : Clkout :=
  { enable := c.b 1 2, idleLow := c.b 1 3, source := c.f 1 5 4, n := c.f 2 20 0, coarse := c.f 3 35 24, fine := c.f 3 15 0,
    keepAlive := c.b 1 6 }

/-- N out of the range of its source, or the output above 2.5 GHz, with CHART at the fastest pixel clock of R256. -/
def Clkout.badN (x : Clkout) : Bool :=
  if x.source = 0 then !(4 ≤ x.n && x.n ≤ 1048576)
  else !(1 ≤ x.n && x.n ≤ 1024) || decide (2500000000 * x.n < sourceHz x.source 6)

def mbSetClkout : MbCommand :=
  onDev (form 0x203 [3]) (fun _ => [[(6, 0)], [(20, 0)], [(35, 24), (15, 0)]])
    (fun c => faultsOf [(2, c.clkout.badN), (3, c.clkout.source != 0 && (c.clkout.coarse != 0 || c.clkout.fine != 0))])
    fun d c => (d.onTb fun t => { t with clkStaged := t.clkStaged.set (c.f 1 1 0) c.clkout }, .ok [])

def execSetClkout (slot : SlotId) (s : State) : Host.Outcome State Fault Refusal := done (s.accept slot mbSetClkout)

/-- The commits of the outputs of a mask at a tick; a pending one of the same output gives way. -/
def Dev.commitAt (d : Dev) (mask tick : Nat) : Dev :=
  let outs := maskList 4 mask
  d.onTb fun t =>
    { t with commits := (t.commits.filter fun c => !decide (c.2.1 ∈ outs)) ++
               outs.map fun o => (tick, o, t.clkStaged.getD o Clkout.reset) }

/-- AT_FRAME as frames from the one in progress (R177). -/
def Dev.ahead (d : Dev) (frame40 : Nat) : Nat := (frame40 + 2 ^ 40 - d.tb.frame % 2 ^ 40) % 2 ^ 40

def mbCommitClocks : MbCommand :=
  onDev (form 0x204 [1, 3]) (fun _ => [(3, 0)] :: frame40Words) (fun _ => []) fun d c =>
    let n := d.ahead (nat40 (c.w 2) (c.w 3))
    if c.count = 1 then (d.commitAt (c.f 1 3 0) d.nextTick, .deferred d.nextTick [])
    else if n < 2 ∨ 2 ^ 32 < n then (d, .fail (failAt eParam 2))
    else (d.commitAt (c.f 1 3 0) (d.tb.frame + n), .deferred (d.tb.frame + n) [])

def execCommitClocks (slot : SlotId) (s : State) : Host.Outcome State Fault Refusal := done (s.accept slot mbCommitClocks)

/-- The staged setting of an output with every accepted change. -/
def Dev.committedStaged (d : Dev) (o : Nat) : Clkout :=
  d.fw.deferred.foldl (fun c e => match e.effect with
    | .stageBearing n s => if n = o then c.bearing s else c
    | .loadSettings _ x _ => x.clkStaged.getD o c
    | _ => c) (d.tb.clkStaged.getD o Clkout.reset)

/-- S moves a FINE_DLY of an output out of its range, or the output has another source. The source is that of the live
setting: whether a staged SOURCE that is not the Meridian refuses the step the spec does not say (DESIGN CHOICE,
log 135). -/
def Dev.badBearing (d : Dev) (o : Nat) (s : Int) : Bool :=
  let live := (d.tb.clkLive.getD o ClkLive.reset).cfg
  let wait := sumI ((d.tb.bearings.filter fun b => b.2.1 == o).map fun b => b.2.2)
  let bad := fun (w : Int) (c : Clkout) => decide ((c.fine : Int) + w + s < 0 ∨ 65535 < (c.fine : Int) + w + s)
  live.source != 0 || bad wait live || bad 0 (d.committedStaged o) || d.tb.commits.any fun c => c.2.1 == o && bad wait c.2.2

def mbStepBearing : MbCommand :=
  onDev (form 0x205 [1]) (fun _ => [[(35, 20), (3, 0)]]) (fun _ => []) fun d c =>
    let outs := maskList 4 (c.f 1 3 0)
    if outs.any fun o => d.badBearing o (c.s 1 35 20) then (d, .fail (failAt eParam 1))
    else
      ((d.onTb fun t => { t with bearings := t.bearings ++ outs.map fun o => (d.nextTick, o, c.s 1 35 20) }).each outs fun e o =>
        e.defer d.nextTick 0x205 (.stageBearing o (c.s 1 35 20)), .deferred d.nextTick [])

def execStepBearing (slot : SlotId) (s : State) : Host.Outcome State Fault Refusal := done (s.accept slot mbStepBearing)

/-- A setting outside the table of R133, which limits RATE, and DEPTH of the Chart PLL, whatever MODE is. The DEPTH of the
Engine and Store PLLs it limits for DOWN and CENTRE only. -/
def badSpread (pll : Nat) (s : Spread) : Bool :=
  let rateBad := decide (s.rate < 300 ∨ 330 < s.rate)
  if pll = 3 then s.mode != 0 || s.depth != 0 || s.rate != 0
  else if pll = 2 then decide (1 < s.mode) || s.depth != 50 || rateBad
  else s.mode == 3 || rateBad || decide ((if s.mode = 1 then 50 else if s.mode = 2 then 25 else 127) < s.depth)

/-- The setting of a spread PLL, 0 Engine, 1 Store, 2 Chart, from the next modulation boundary. -/
def Dev.setSpread (d : Dev) (pll : Nat) (s : Spread) : Dev :=
  d.onTb fun t =>
    if pll = 0 then { t with engine := t.engine.setSpread t.now s } else if pll = 1 then { t with store := t.store.setSpread t.now s }
    else if pll = 2 then { t with chart := t.chart.setSpread t.now s } else t

def Cmd.spread (c : Cmd) : Spread := { mode := c.f 1 3 2, depth := c.f 1 10 4, rate := c.f 1 19 11 }

def mbSetSpread : MbCommand :=
  onDev (form 0x206 [1]) (fun _ => [[(19, 0)]])
    (fun c => faultsOf [(1, badSpread (c.f 1 1 0) c.spread)]) fun d c =>
    let e := d.setSpread (c.f 1 1 0) c.spread
    if c.f 1 1 0 = 2 ∧ c.spread.mode ≠ 0 ∧ !(d.cap.chart.hpd && d.cap.chart.sink.downSpread) then (d, .fail (failAt eParam 1))
    else if c.f 1 1 0 = 0 ∧ 900 < e.load e.committedItems e.nextTick then (d, .fail (failPlain eBudget))
    else (e, .ok [])

def execSetSpread (slot : SlotId) (s : State) : Host.Outcome State Fault Refusal := done (s.accept slot mbSetSpread)

/-- GS_TB (R123). -/
def TimeBase.gsTb (t : TimeBase) : Lane :=
  lane [(0, 0, b2n t.warm), (1, 1, b2n t.ocxoWarm), (2, 2, b2n t.refPresent), (3, 3, b2n t.meridian.locked),
    (4, 4, b2n t.holdover), (5, 5, b2n t.refLocked), (6, 6, b2n t.walking), (7, 7, b2n t.syncAligned),
    (47, 16, codeOf 32 t.refPhase)]

/-- Frames of a running walk still to come. -/
def TimeBase.walkLeft (t : TimeBase) : Nat :=
  match t.walk with
  | some w => w.from_ + w.total - t.frame
  | none => 0

def TimeBase.words (t : TimeBase) : List Word :=
  [word [(15, 0, t.gsTb.toNat), (16, 16, b2n t.steerLimit),
     (20, 17, b2n t.chart.locked + 2 * b2n t.store.locked + 4 * b2n t.engine.locked + 8 * b2n t.meridian.locked),
     (22, 21, t.lastLoss)],
   w36 (codeOf 32 t.refPhase)] ++ wordsT72 t.steer ++ wordsT72 t.align.linkDelay ++
  [w36 (codeOf 36 t.align.residual), w36 t.walkLeft]

def mbGetTimebase : MbCommand :=
  onDev (form 0x207 [0]) (fun _ => []) (fun _ => []) fun d _ => (d, .ok d.tb.words)

def execGetTimebase (slot : SlotId) (s : State) : Host.Outcome State Fault Refusal := done (s.accept slot mbGetTimebase)

/-- SET_GRATICULE (R176, R120, R185). A later request replaces a pending one. -/
def mbSetGraticule : MbCommand :=
  onDev (form 0x301 [1]) (fun _ => [[(4, 0)]]) (fun c => faultsOf [(1, c.f 1 4 0 < 12 || 24 < c.f 1 4 0)])
    fun d c =>
    let k := c.f 1 4 0
    if 20 < k ∧ (d.tb.cfg.refSrc = 2 ∨ d.committedSrc = 2) then (d, .fail (failAt eParam 1))
    else if 900 < maxN (d.loads d.committedItems [k] d.engineDepth) then (d, .fail (failPlain eBudget))
    else
      let t := if k = d.tb.k then d.nextTick else d.tickOfK k
      (d.onTb fun u => { u with pendingK := some { tick := t, k := k, counts := true } }, .deferred t [])

def execSetGraticule (slot : SlotId) (s : State) : Host.Outcome State Fault Refusal := done (s.accept slot mbSetGraticule)

/-- COARSE_WRAP (R58): the wrap coincides with the next tick, and GS_EPOCH follows it. -/
def TimeBase.wrap (t : TimeBase) : TimeBase :=
  let n := t.nominal (t.frame + 1)
  if t.running && n % 2 ^ 48 == 0 then { t with coarse := 0, coarseCheck := 0, epoch := BitVec.ofNat 16 (n / 2 ^ 48) } else t

def execCoarseWrap (s : State) : Host.Outcome State Fault Refusal := doneDev s (s.dev.onTb TimeBase.wrap)

end Sys2Proof.Machine
end

