-- ==== Sys2Proof/Machine/Measure.lean ====
section
/-! DEFINITION. Readings of kinds 0x01 to 0x10 from the stamps of a gate: the value formats, pairing, the NCO grid
and one function per kind (06 R157 to R172). -/

namespace Sys2Proof.Machine

/-! ## Value formats (R9, R195) -/

/-- Value words, and whether some value was clamped. -/
structure Vals where
  words : List Word
  sat : Bool
  deriving DecidableEq, Repr

def Vals.join (l : List Vals) : Vals := { words := l.flatMap Vals.words, sat := l.any Vals.sat }

def valS72 (x : Int) : Vals := { words := wordsT72 (clampS 72 x), sat := decide (clampS 72 x ≠ x) }

def valU72 (n : Nat) : Vals := { words := words72 (clampU 72 n), sat := decide (clampU 72 n ≠ n) }

/-- A time n / d gr in T72, whole gr. -/
def valT (x : Int) : Vals := valS72 x

/-- n / d gr in TM72, rounded half up. -/
def valTM (n : Int) (d : Nat) : Vals := valS72 (roundDiv (n * 4096) d)

/-- √(n / d) gr in TM72, rounded down. -/
def valRoot (n : Int) (d : Nat) : Vals := valS72 (isqrt (n.toNat * 2 ^ 24 / d) : Nat)

/-- n / d in F72 (Q34.38); d = 0 clamps. -/
def valF (n d : Nat) : Vals :=
  if d = 0 then { words := words72 (2 ^ 72 - 1), sat := true } else valU72 ((2 * n * 2 ^ 38 + d) / (2 * d))

/-- n / d in U36; 1 and above clamps. -/
def valU36 (n d : Nat) : Vals :=
  let v := if d = 0 then 2 ^ 36 else (2 * n * 2 ^ 36 + d) / (2 * d)
  { words := [w36 (clampU 36 v)], sat := decide (clampU 36 v ≠ v) }

def valC (n : Nat) : Vals := valU72 n

def valW (n : Nat) : Vals := { words := [w36 n], sat := false }

/-- 1 / gr in Hz (R157). -/
def grHz : Nat := 10240000000000

/-! ## Statistics (R157): samples over a common divisor -/

/-- MEAN of xs / d. -/
def valMean (xs : List Int) (d : Nat) : Vals := valTM (sumI xs) (xs.length * d)

/-- The population deviation of xs / d. -/
def valSdev (xs : List Int) (d : Nat) : Vals :=
  let n : Int := xs.length
  valRoot (n * sumI (xs.map fun x => x * x) - sumI xs * sumI xs) ((xs.length * d) * (xs.length * d))

/-- STAT5 with a mean of its own. -/
def stat5With (mean : Vals) (xs : List Int) (d : Nat) : Vals :=
  let m := minMax xs
  Vals.join [mean, valSdev xs d, valTM m.1 d, valTM m.2 d, valC xs.length]

def stat5 (xs : List Int) : Vals := stat5With (valMean xs 1) xs 1

/-! ## Edges of a gate -/

/-- A sense code admits an edge: 0 RISE, 1 FALL, 2 BOTH. -/
def senseTakes (sense : Nat) (rising : Bool) : Bool := sense == 2 || (sense == 0 && rising) || (sense == 1 && !rising)

/-- Selected edges of a channel in a frame, in gr. -/
def Dev.sel (d : Dev) (c sense f : Nat) : List Int :=
  (((d.chan c).record f).stamps.filter fun s => senseTakes sense s.rising).map fun s => ((s.time : Nat) : Int)

/-- The last edges of both senses before frame f: rising and falling, with their frames. -/
def Channel.lastOf (x : Channel) (f : Nat) : Option (Nat × Int) × Option (Nat × Int) :=
  let last := fun (rising : Bool) => (x.frames.filter fun r => r.frame < f).findSome? fun r =>
    ((r.stamps.filter fun s => s.rising == rising).getLast?).map fun s => (r.frame, ((s.time : Nat) : Int))
  ((last true).or x.lastRise, (last false).or x.lastFall)

/-- The last selected edge of a channel before frame f, however far back: its frame and time. -/
def Dev.lastSel (d : Dev) (c sense f : Nat) : Option (Nat × Int) :=
  let l := (d.chan c).lastOf f
  if sense = 0 then l.1
  else if sense = 1 then l.2
  else match l.1, l.2 with
    | some a, some b => some (if a.2 < b.2 then b else a)
    | some a, none => some a
    | none, b => b

/-- A gate as its values see it: its frames in order, and the edges of a role in them. -/
structure Gate where
  item : Item
  frames : List FrameInfo
  /-- edges by role and sense code -/
  edges : Nat → Nat → List Int
  /-- the last edge before the gate and the first after it, by role and sense code -/
  around : Nat → Nat → Option Int × Option Int
  /-- D of R159 of a role -/
  decim : Nat → Nat
  /-- grid index and TIE in 2^-24 gr of role A's edges -/
  ties : List (Int × Int)

/-- Differences of neighbours n apart. -/
def diffs (n : Nat) (xs : List Int) : List Int := (xs.zip (xs.drop n)).map fun x => x.2 - x.1

/-- The fit's slope as a fraction with positive divisor, taken from the first edge (R159). -/
def slopeOf (ts : List Int) : Int × Nat :=
  let q := slope (ts.map fun t => t - ts.headD 0)
  (q.1, q.2.toNat)

/-- The regression period b / D, or 2b with SENSE = BOTH. R164 writes b / D without a word on SENSE = BOTH; PHASE takes the
period of R159 there too (DEDUCED, log 183). -/
def Gate.period (g : Gate) (r : Nat) (sense : Nat) : Nat × Nat :=
  let q := slopeOf (g.edges r sense)
  if sense = 2 then (2 * q.1.toNat, q.2) else (q.1.toNat, q.2 * g.decim r)

def Gate.sense (g : Gate) (r : Nat) : Nat := g.item.sense.getD r 0

/-- The edges of a role in its own sense. -/
def Gate.own (g : Gate) (r : Nat) : List Int := g.edges r (g.sense r)

/-- The stops of a role around the gate. -/
def Gate.beyond (g : Gate) (r : Nat) : Option Int × Option Int := g.around r (g.sense r)

/-! ## Pairing (R161 to R163) -/

/-- What pairing gives: the intervals, the starts unpaired, COINCIDENT. -/
structure Paired where
  spans : List Int
  unpaired : Nat
  coincident : Bool
  deriving DecidableEq, Repr

/-- NEXT. -/
def nextPairs (coinc maxSpan : Nat) : List Int → List Int → Paired
  | [], _ => { spans := [], unpaired := 0, coincident := false }
  | s :: rest, stops =>
    let left := stops.dropWhile fun p => decide (100 * p < 100 * s - 128 * (coinc : Int))
    match left with
    | [] =>
      let q := nextPairs coinc maxSpan rest []
      { q with unpaired := q.unpaired + 1 }
    | p :: ps =>
      let free := match rest with
        | [] => true
        | s2 :: _ => decide (100 * p < 100 * s2 - 128 * (coinc : Int))
      if free && decide (p - s ≤ maxSpan) then
        let q := nextPairs coinc maxSpan rest ps
        { spans := (p - s) :: q.spans, unpaired := q.unpaired, coincident := q.coincident || decide (p < s) }
      else
        let q := nextPairs coinc maxSpan rest left
        { q with unpaired := q.unpaired + 1 }

/-- The signed interval to the stop nearest to a start, the earlier on a tie. -/
def nearestStop (stops : List Int) (s : Int) : Option Int :=
  stops.foldl (fun m p => match m with
    | none => some (p - s)
    | some x => if (p - s).natAbs < x.natAbs then some (p - s) else some x) none

/-- The starts counted unpaired because a 65th arrived while 64 waited: numbers of starts. Each start waits until a
stop at or after it, or MAX_SPAN, has passed. -/
def pushedOut (stops : List Int) (maxSpan : Nat) (starts : List Int) : List Nat :=
  (starts.zipIdx.foldl (fun (st : List (Nat × Int) × List Nat) x =>
    let s := x.1
    let wait := st.1.filter fun w => decide (s < w.2)
    let known := match stops.find? fun p => decide (s ≤ p) with
      | some p => min p (s + maxSpan + 1)
      | none => s + maxSpan + 1
    match wait with
    | w :: ws => if 64 ≤ wait.length then (ws ++ [(x.2, known)], w.1 :: st.2) else (wait ++ [(x.2, known)], st.2)
    | [] => ([(x.2, known)], st.2)) ([], [])).2

/-- NEAREST and SIGNED: per start, the signed interval; none where the nearest stop is further away than MAX_SPAN, or is one
of those `around` the gate, before it and after it. -/
def nearestPairs (maxSpan : Nat) (starts stops : List Int) (around : Option Int × Option Int) : List (Option Int) :=
  let out := pushedOut stops maxSpan starts
  starts.zipIdx.map fun x =>
    if x.2 ∈ out then none
    else match nearestStop stops x.1 with
      | some v =>
        if v.natAbs ≤ maxSpan ∧ !(around.1.any fun p => decide ((x.1 - p).natAbs ≤ v.natAbs)) ∧
          !(around.2.any fun p => decide ((p - x.1).natAbs < v.natAbs)) then some v else none
      | none => none

/-! ## The NCO grid (R168) -/

/-- The frame was of the run that `f` belongs to, and not before its first gated frame; `f` is two frames later. -/
def Dev.inSameRun (d : Dev) (f : Nat) : Bool :=
  let info := fun n => d.survey.frames.find? fun i => i.frame == n
  match info (f - 2), info (f - 1) with
  | some a, some b => a.inRun && !a.leadIn && b.inRun && !b.leadIn
  | _, _ => false

/-- P_f, after the P of the frame before. -/
def Dev.stepAt (d : Dev) (i : Item) (prev : Option Nat) (f : Nat) : Nat :=
  if !i.track then i.pNom
  else
    let c := i.ch.getD 0 0
    let es := d.sel c (i.sense.getD 0 0) (f - 2)
    let r := (d.chan c).record (f - 2)
    let q := slopeOf es
    if d.inSameRun f && decide (2 ≤ es.length) && r.lostFifo + r.lostCheck == 0 then (roundDiv (q.1 * 2 ^ 24) q.2).toNat
    else prev.getD i.pNom

/-- The segment of a frame: from the next grid point, or from the gate's first edge, up to the frame's end. -/
def gridSeg (grid : List GridSeg) (edges : List Int) (endGr : Nat) (step : Nat) : Option GridSeg :=
  let next : Option (Nat × Int) := match grid.getLast? with
    | some s => some (s.index + s.points, s.pos + s.points * s.step)
    | none => edges.head?.map fun t => (0, t * 2 ^ 24)
  next.map fun x =>
    { index := x.1, pos := x.2, step := step,
      points := ceilDiv ((endGr : Int) * 2 ^ 24 - x.2).toNat (max 1 step) }

/-- Grid index and TIE of a stamp, in 2^-24 gr: the nearest grid point, ties to the lower index. -/
def tieOf (grid : List GridSeg) (t : Int) : Int × Int :=
  let u := t * 2 ^ 24
  let held := grid.filter fun s => 0 < s.points && decide (s.pos ≤ u)
  match (held.getLast?).or grid.head? with
  | none => (0, 0)
  | some s =>
    let st : Int := max 1 s.step
    let j := (u - s.pos) / st
    let lo := s.pos + j * st
    if 2 * (u - lo) ≤ st then (s.index + j, u - lo) else (s.index + j + 1, u - lo - st)

/-! ## One function per kind: the values, the data of R146, COINCIDENT -/

/-- What a kind's function answers. -/
structure Result where
  vals : Vals
  present : Bool
  coincident : Bool
  deriving DecidableEq, Repr

def result (l : List Vals) (present : Bool) : Result := { vals := Vals.join l, present := present, coincident := false }

def Gate.freq (g : Gate) : Result :=
  let ts := g.own 0
  let p := g.period 0 (g.sense 0)
  result [valF (grHz * p.2) p.1, valC ts.length, valT (ts.getLastD 0 - ts.headD 0)] (2 ≤ ts.length)

def Gate.periodKind (g : Gate) : Result :=
  let ts := g.own 0
  let p := g.period 0 (g.sense 0)
  let both := g.sense 0 == 2
  let xs := diffs (if both then 2 else 1) ts
  result [stat5With (valTM p.1 p.2) xs (if both then 1 else g.decim 0)] (2 ≤ ts.length)

def Gate.ti (g : Gate) : Result :=
  let i := g.item
  if i.pairing = 0 then
    let q := nextPairs i.coinc i.maxSpan (g.own 0) (g.own 1)
    { result [stat5 q.spans, valC q.unpaired] (1 ≤ q.spans.length) with coincident := q.coincident }
  else
    let q := nearestPairs i.maxSpan (g.own 0) (g.own 1) (g.beyond 1)
    let xs := q.filterMap id
    let ys := if i.pairing = 1 then xs.map fun x => (x.natAbs : Int) else xs
    result [stat5 ys, valC (q.length - xs.length)] (1 ≤ ys.length)

def Gate.phase (g : Gate) : Result :=
  let xs := (nearestPairs g.item.maxSpan (g.own 0) (g.own 1) (g.beyond 1)).filterMap id
  let p := g.period 0 (g.sense 0)
  let den := xs.length * p.1
  let frac := (sumI xs * p.2) % (den : Int)
  let u := if den = 0 then 0 else (2 * frac.toNat * 2 ^ 36 + den) / (2 * den) % 2 ^ 36
  result [valW u, valMean xs 1, valSdev xs 1, valC xs.length] (1 ≤ xs.length && 2 ≤ (g.own 0).length)

/-- Leading and trailing sense of PWIDTH and DUTY. -/
def Item.lead (i : Item) : Nat := b2n i.neg

def Gate.pulses (g : Gate) : Paired :=
  let i := g.item
  nextPairs i.coinc i.maxSpan (g.edges 0 i.lead) (g.edges 0 (1 - i.lead))

def Gate.pwidth (g : Gate) : Result :=
  let q := g.pulses
  { result [stat5 q.spans] (1 ≤ q.spans.length) with coincident := q.coincident }

def Gate.duty (g : Gate) : Result :=
  let q := g.pulses
  let p := g.period 0 g.item.lead
  let n := q.spans.length
  { result [valU36 ((sumI q.spans).toNat * p.2) (n * p.1), valMean q.spans 1, valTM p.1 p.2]
      (1 ≤ n && 2 ≤ (g.edges 0 g.item.lead).length) with
    coincident := q.coincident }

def Gate.riseFall (g : Gate) : Result :=
  let i := g.item
  let r := nextPairs i.coinc i.maxSpan (g.edges 0 0) (g.edges 1 0)
  let f := nextPairs i.coinc i.maxSpan (g.edges 1 1) (g.edges 0 1)
  { result [valMean r.spans 1, valSdev r.spans 1, valMean f.spans 1, valSdev f.spans 1, valC r.spans.length,
      valC f.spans.length] (1 ≤ r.spans.length && 1 ≤ f.spans.length) with
    coincident := r.coincident || f.coincident }

def Gate.count (g : Gate) : Result :=
  result [valC (g.own 0).length, valT (sumN (g.frames.map fun i => i.length * 4096) : Nat)] true

def Gate.ratio (g : Gate) : Result :=
  let a := g.period 0 (g.sense 0)
  let b := g.period 1 (g.sense 1)
  result [valF (b.1 * a.2) (b.2 * a.1), valC (g.own 0).length, valC (g.own 1).length]
    (2 ≤ (g.own 0).length && 2 ≤ (g.own 1).length)

def Gate.skew (g : Gate) : Result :=
  let roles := (List.range 4).filter fun r => 0 < r && decide (g.item.ch.getD r unusedCh < 96)
  let res := roles.map fun r => nearestPairs g.item.maxSpan (g.own 0) (g.own r) (g.beyond r)
  let sets := (List.range (g.own 0).length).filter fun j => res.all fun l => (l.getD j none).isSome
  let cols := res.map fun l => sets.map fun j => ((l.getD j none).getD 0 : Int)
  result (cols.flatMap (fun xs => [valMean xs 1, valSdev xs 1]) ++ [valC sets.length]) (1 ≤ sets.length)

/-- n² C times the mean square of the residuals of the line t ≈ a + b m, and C, both for TIE's RMS_FIT. -/
def fitResidual (ts ms : List Int) : Int × Int :=
  let n : Int := ts.length
  let us := ts.map fun t => t - ts.headD 0
  let a := n * sumI (us.map fun u => u * u) - sumI us * sumI us
  let b := n * sumI ((ms.zip us).map fun x => x.1 * x.2) - sumI ms * sumI us
  let c := n * sumI (ms.map fun m => m * m) - sumI ms * sumI ms
  if c = 0 then (a, 1) else (a * c - b * b, c)

def Gate.tie (g : Gate) : Result :=
  let ts := g.own 0
  let n := ts.length
  let xs := g.ties.map fun x => x.2
  let q := fitResidual ts (g.ties.map fun x => x.1)
  let m := minMax xs
  result [valRoot q.1 (n * n * q.2.toNat), valRoot (sumI (xs.map fun x => x * x)) (n * 2 ^ 48), valTM m.1 (2 ^ 24),
    valTM m.2 (2 ^ 24), valC n] (3 ≤ n)

def Gate.pjitter (g : Gate) : Result :=
  let xs := diffs 1 (g.own 0)
  let m := minMax xs
  result [valSdev xs 1, valTM (m.2 - m.1) 1, valC xs.length] (2 ≤ xs.length)

def Gate.c2c (g : Gate) : Result :=
  let xs := diffs 1 (diffs 1 (g.own 0))
  result [valRoot (sumI (xs.map fun x => x * x)) xs.length, valTM (maxN (xs.map Int.natAbs) : Nat) 1, valC xs.length]
    (1 ≤ xs.length)

def Gate.nperiod (g : Gate) : Result :=
  let xs := diffs g.item.nper (g.own 0)
  result [stat5 xs] (1 ≤ xs.length)

/-- SSC windows: start and span of each. -/
def sscWindows (m : Nat) (ts : List Int) : List (Int × Nat) :=
  let ends := (List.range (ts.length / m + 1)).filterMap fun j => ts[j * m]?
  (ends.zip (ends.drop 1)).map fun x => (x.1, (x.2 - x.1).toNat)

/-- Start times of the crossings, with `above` and `below` for the two sides of the band. -/
def crossings (above below : Nat → Bool) (ws : List (Int × Nat)) : List Int :=
  (ws.foldl (fun (st : Bool × List Int) w =>
    if above w.2 then (false, if st.1 then st.2 ++ [w.1] else st.2)
    else if below w.2 then (true, st.2) else st) (false, [])).2

def Gate.ssc (g : Gate) : Result :=
  let ts := g.own 0
  let p := g.period 0 (g.sense 0)
  let md := g.item.sscM * g.decim 0
  let ws := sscWindows g.item.sscM ts
  let dmax := maxN (ws.map fun w => w.2)
  let dmin := ((ws.map fun w => w.2).foldl min dmax)
  -- f_j against F_NOM ± H over the common divisor 10 × dt × P × dmin × dmax
  let f := (10 * md * p.1 * dmin * dmax : Int)
  let nom := fun (dt : Nat) => (10 * p.2 * dt * dmin * dmax : Int)
  let h := fun (dt : Nat) => (md * (dmax - dmin) * dt * p.1 : Int)
  let xs := crossings (fun dt => decide (nom dt + h dt < f)) (fun dt => decide (f < nom dt - h dt)) ws
  let c := xs.length
  result [valF (grHz * p.2) p.1, valF (md * grHz) dmin, valF (md * grHz) dmax,
    (if 2 ≤ c then valF ((c - 1) * grHz) (xs.getLastD 0 - xs.headD 0).toNat else valC 0), valU36 (dmax - dmin) dmax,
    valC c] (2 ≤ c)

/-- A bin of R172. -/
def binOf (i : Item) (x : Int) : Int := (x - i.centre) / (2 ^ i.binExp : Nat) + 2048

def Gate.histogram (g : Gate) : Result :=
  let xs := if g.item.histPeriod then diffs 1 (g.own 0) else g.ties.map fun x => x.2 / 2 ^ 24
  let bs := xs.map (binOf g.item)
  let n := fun (p : Int → Bool) => (bs.filter p).length
  result ([valC xs.length, valC (n fun b => decide (b < 0)), valC (n fun b => decide (4095 < b))] ++
    (List.range 4096).map fun (b : Nat) => valC (n fun x => x == (b : Int))) true

/-- The values of kinds 0x01 to 0x10. -/
def Gate.values (g : Gate) : Result :=
  let k := g.item.kind
  if k = kFreq then g.freq
  else if k = kPeriod then g.periodKind
  else if k = kTi then g.ti
  else if k = kPhase then g.phase
  else if k = kPwidth then g.pwidth
  else if k = kDuty then g.duty
  else if k = kRisefall then g.riseFall
  else if k = kCount then g.count
  else if k = kRatio then g.ratio
  else if k = kSkew then g.skew
  else if k = kTie then g.tie
  else if k = kPjitter then g.pjitter
  else if k = kC2c then g.c2c
  else if k = kNperiod then g.nperiod
  else if k = kSsc then g.ssc
  else g.histogram

end Sys2Proof.Machine
end

