-- ==== Sys2Proof/Machine/Analysis.lean ====
section
/-! DEFINITION. The analyses of kinds 0x20 to 0x26: the TIE stream, filters and loops, deviations, spectra,
decomposition and mask tests (07 R183, 08 R195 to R217). -/

namespace Sys2Proof.Machine

/-! ## The TIE stream (R183) -/

/-- A sample of n edges whose TIE sum is `s`, in 2^-8 gr, absent where there is no edge. -/
def sampleOf (frame : Nat) (ts : List Int) : Sample :=
  if ts = [] then { frame := frame, value := none, counts := true, saturated := false }
  else
    let v := roundDiv (sumI ts) (ts.length * 2 ^ 16)
    let m : Int := 2 ^ 35 - 1
    let w := max (-m) (min m v)
    { frame := frame, value := some w, counts := true, saturated := decide (w ≠ v) }

/-- The midpoint after grid index m, doubled, where the grid has come that far. -/
def midAfter (grid : List GridSeg) (m : Nat) : Option Int :=
  (grid.find? fun s => s.index ≤ m && m < s.index + s.points).map fun s =>
    2 * (s.pos + (m - s.index : Nat) * s.step) + s.step

/-- The samples completed in a frame that ends at `endGr`: from number `taken` on, at most `fuel` of them. -/
def newSamples (grid : List GridSeg) (ties : List (Int × Int)) (r frame endGr : Nat) : Nat → Nat → List Sample
  | 0, _ => []
  | fuel + 1, j =>
    match midAfter grid (j * r + r - 1) with
    | none => []
    | some m =>
      if m < 2 * ((endGr : Int) * 2 ^ 24) then
        let mine := ties.filter fun x => decide (((j * r : Nat) : Int) ≤ x.1 ∧ x.1 < ((j * r + r : Nat) : Int))
        sampleOf frame (mine.map fun x => x.2) :: newSamples grid ties r frame endGr fuel (j + 1)
      else []

/-- One word of a TIE traverse. -/
def Sample.word (s : Sample) : Word :=
  match s.value with
  | some v => w36 (codeOf 36 v)
  | none => 0x800000000

/-! ## Filters and loops (R197, R204, R206) -/

/-- A multiply-accumulate into 80 bits that clamps and holds: the sum, and whether it has clamped. -/
def macSum (ps : List (Int × Int)) : Int × Bool :=
  ps.foldl (fun (st : Int × Bool) p =>
    if st.2 then st
    else
      let x := st.1 + p.1 * p.2
      (clampS 80 x, decide (clampS 80 x ≠ x))) (0, false)

/-- The loop on one sample: state after it, output, clamped. -/
def Filter.loop (f : Filter) (i : Item) (x : Option Int) : Filter × Int × Bool :=
  match x with
  | none =>
    let phi := f.phi + f.v
    ({ f with phi := clampS 72 phi }, 0, decide (clampS 72 phi ≠ phi))
  | some x =>
    let f := if f.primed then f else { f with phi := x * 2 ^ 34, v := 0, primed := true }
    let raw := x - roundDiv f.phi (2 ^ 34)
    let e := clampS 36 raw
    let v := f.v + i.ki * e
    let phi := f.phi + i.kp * e + clampS 72 v
    let out := if i.outTracked then roundDiv (clampS 72 phi) (2 ^ 34) else e
    ({ f with phi := clampS 72 phi, v := clampS 72 v }, clampS 36 out,
      decide (e ≠ raw) || decide (clampS 72 v ≠ v) || decide (clampS 72 phi ≠ phi) || decide (clampS 36 out ≠ out))

/-- The filter on one sample: state, output, clamped. -/
def Filter.tap (f : Filter) (i : Item) (c : CoefSet) (x : Option Int) : Filter × Int × Bool :=
  let lim : Int := i.inMax * 256
  let raw := x.getD 0
  let u := max (-lim) (min lim raw)
  let line := (u :: f.delay).take 256
  let s := macSum ((c.taps.map fun (t : Int) => t * (2 ^ c.shift : Nat)).zip line)
  let y := roundDiv s.1 (2 ^ 34)
  ({ f with delay := line, clamped := f.clamped || s.2 }, clampS 36 y, decide (u ≠ raw) || s.2 || decide (clampS 36 y ≠ y))

/-- A FILTERED item on one sample. -/
def Filter.run (f : Filter) (i : Item) (c : Option CoefSet) (s : Sample) : Filter × Sample :=
  let a := if i.loop then f.loop i s.value else (f, s.value.getD 0, false)
  let x := if s.value.isSome then some a.2.1 else none
  let b := match c with
    | some c => a.1.tap i c x
    | none => (a.1, a.2.1, false)
  ({ b.1 with seen := f.seen + 1 },
   { frame := s.frame, value := x.map fun _ => b.2.1, counts := decide (i.skip ≤ f.seen),
     saturated := s.saturated || a.2.2 || (b.2.2 && c.isSome) })

def Filter.runAll (f : Filter) (i : Item) (c : Option CoefSet) : List Sample → Filter × List Sample
  | [] => (f, [])
  | s :: r =>
    let q := f.run i c s
    let t := q.1.runAll i c r
    (t.1, q.2 :: t.2)

def Filter.zero : Filter := { delay := [], phi := 0, v := 0, primed := false, seen := 0, clamped := false }

/-- FILTERED's values (R206). -/
def filteredValues (ss : List Sample) : Result :=
  let xs := (ss.filter fun s => s.counts).filterMap fun s => s.value
  let m := minMax xs
  result [valMean xs 256, valRoot (sumI (xs.map fun x => x * x)) (xs.length * 2 ^ 16), valTM (m.2 - m.1) 256,
    valC xs.length] (1 ≤ xs.length)

/-! ## Stability deviations (R207) -/

/-- n / d gr² as BF36. -/
def valBF (n d : Nat) : Vals :=
  let q := bfCode n d
  { words := [q.1], sat := q.2 }

/-- d_j(m), if its samples are present. -/
def secondDiff (xs : List (Option Int)) (m j : Nat) : Option Int :=
  match xs.getD j none, xs.getD (j + m) none, xs.getD (j + 2 * m) none with
  | some a, some b, some c => some (c - 2 * b + a)
  | _, _, _ => none

/-- The terms of ADEV. -/
def adevTerms (xs : List (Option Int)) (m : Nat) : List Int :=
  (List.range (xs.length - 2 * m)).filterMap (secondDiff xs m)

/-- The terms of MDEV: sums over m neighbouring second differences. -/
def mdevTerms (xs : List (Option Int)) (m : Nat) : List Int :=
  (List.range (xs.length + 1 - 3 * m)).filterMap fun j =>
    let ds := (List.range m).map fun l => secondDiff xs m (j + l)
    if ds.all Option.isSome then some (sumI (ds.map fun x => x.getD 0)) else none

/-- VALUE and TERMS of one averaging factor. -/
def deviation (kind : Nat) (xs : List (Option Int)) (m : Nat) : List Vals × Nat :=
  let ts := if kind = kAdev then adevTerms xs m else mdevTerms xs m
  let n := ts.length
  let s := (sumI (ts.map fun t => t * t)).toNat
  let den := if kind = kAdev then 2 * n else if kind = kMdev then 2 * m * m * n else 6 * m * m * n
  ([valBF (s * 2 ^ 40) (den * 2 ^ 16), valC n], n)

def deviationValues (i : Item) (ss : List Sample) : Result :=
  let xs := ss.map fun s => s.value
  let ds := (List.range i.tauCount).map fun j => deviation i.kind xs (2 ^ (i.tauExp0 + j))
  result (valU72 (i.r * i.pNom) :: valC (xs.filter Option.isNone).length :: ds.flatMap fun x => x.1)
    (match ds.head? with
      | some x => decide (1 ≤ x.2)
      | none => false)

/-! ## Sines (R208, R209) -/

/-- The scale of sines and of window coefficients. -/
def trigOne : Int := 2 ^ 200

/-- π on that scale. -/
def trigPi : Int := 5048344754617993871973410141242436836214643421488662971535368

/-- The cosine series from term k on: `x2` is the square of the angle. -/
def cosTerms (x2 : Int) : Nat → Nat → Int → Int
  | 0, _, _ => 0
  | fuel + 1, k, term =>
    term + cosTerms x2 fuel (k + 1) (-(term * x2 / trigOne) / (((2 * k + 1) * (2 * k + 2) : Nat) : Int))

/-- cos(2π n / d) for an angle in the first quadrant. -/
def cosFirst (n d : Nat) : Int :=
  let x := roundDiv (2 * trigPi * n) d
  cosTerms (x * x / trigOne) 34 0 trigOne

/-- cos(2π n / d). -/
def cosTurn (n d : Nat) : Int :=
  let a := n % d
  let m := if d < 2 * a then d - a else a
  if 4 * m ≤ d then cosFirst m d else -cosFirst (d - 2 * m) (2 * d)

/-- sin(2π n / d). -/
def sinTurn (n d : Nat) : Int := cosTurn (4 * n + 3 * d) (4 * d)

/-! ## Spectra (R208 to R212) -/

/-- The cosine terms of a window and their common divisor: RECT, HANN, BH4, FLATTOP. R208 gives the forms of the last two and
not their coefficients (PRESUMED, log 145). -/
def windowTerms (window : Nat) : List Int × Nat :=
  if window = 1 then ([1, -1], 2)
  else if window = 2 then ([35875, -48829, 14128, -1168], 100000)
  else if window = 3 then ([215578950, -416631580, 277263158, -83578947, 6947368], 1000000000)
  else ([1], 1)

/-- w_s of a window of N samples. R208 does not give the argument of the cosines: 2πs / N (DESIGN CHOICE, log 190). -/
def windowCoef (window n s : Nat) : Int :=
  let t := windowTerms window
  roundDiv (sumI (t.1.zipIdx.map fun x => x.1 * cosTurn (x.2 * s) n)) t.2

/-- X_b of N samples on the scale of the cosines `tab`: real and imaginary part. -/
def dftBin (tab : Array Int) (n : Nat) (ys : List Int) (b : Nat) : Int × Int :=
  ys.zipIdx.foldl (fun st y =>
    (st.1 + y.1 * tab.getD (b * y.2 % n) 0, st.2 + y.1 * tab.getD ((b * y.2 + 3 * n / 4) % n) 0)) (0, 0)

/-- The bins are held in 2^-200 gr², this fraction of a BF36 unit, so that small ones keep their precision. -/
def binUnit : Nat := 2 ^ 160

/-- The exact value of the bins 0 to N/2 of a record in 2^-200 gr², its samples in 2^-8 gr and less their mean (R208, R209). -/
def exactBins (window r : Nat) (xs : List Int) : List Nat :=
  let n := xs.length
  let tab := ((List.range n).map fun m => cosTurn m n).toArray
  let ws := (List.range n).map fun s => windowCoef window n s
  let ys := (xs.zip ws).map fun x => x.1 * x.2
  let w2 := sumI (ws.map fun w => w * w)
  (List.range (n / 2 + 1)).map fun b =>
    let x := dftBin tab n ys b
    let c : Int := if b = 0 ∨ 2 * b = n then 1 else 2
    -- H of the r-edge mean, as a fraction of squares
    let hNum := if b = 0 then 1 else sinTurn b (2 * n)
    let hDen := if b = 0 then 1 else (r : Int) * sinTurn b (2 * n * r)
    (roundDiv (c * (x.1 * x.1 + x.2 * x.2) * (2 ^ 24 * binUnit : Nat) * (hDen * hDen)) (trigOne * trigOne * n * w2 * (hNum * hNum)).toNat).toNat

/-- The bins that the transform gives: each within 2^-24 of its exact value. -/
def spectrumBins (window r : Nat) (xs : List Int) : List Nat :=
  (exactBins window r xs).mapNum fun b (e : Nat) =>
    ((e : Int) + within ((e / 2 ^ 24 : Nat) : Int) (Config.spectrumError window r xs b)).toNat

/-- L of R211. -/
def Item.lag (i : Item) (k : Nat) : Nat := ceilDiv (2 ^ i.fftN * i.r * i.pNom) (2 ^ k * 4096 * 2 ^ 24) - 1

/-- A record's samples less their mean, absent ones 0. -/
def centred (ss : List Sample) : List Int :=
  let xs := ss.filterMap fun s => s.value
  let m := roundDiv (sumI xs) xs.length
  ss.map fun s => match s.value with
    | some x => x - m
    | none => 0

/-- The record of N samples. DECOMP always uses HANN. -/
def recordOf (i : Item) (k : Nat) (ss : List Sample) : SpecRecord :=
  let n := 2 ^ i.fftN
  let bad := decide (n / 64 < (ss.filter fun s => s.value.isNone).length)
  let c := (ss.getLast?.map fun s => s.frame).getD 0
  { frame := c + i.lag k, discarded := bad,
    bins := if bad then []
      else spectrumBins (if i.kind = kDecomp then 1 else i.window) i.r (centred ss),
    sat := ss.any fun s => s.saturated }

/-- The records that the source samples now fill, from number `j` on. -/
def newRecords (i : Item) (k : Nat) (ss : List Sample) : Nat → Nat → List SpecRecord
  | 0, _ => []
  | fuel + 1, j =>
    let n := 2 ^ i.fftN
    let s := ss.drop (j * (if i.overlap then n / 2 else n))
    if n ≤ s.length then recordOf i k (s.take n) :: newRecords i k ss fuel (j + 1) else []

/-- f_s / N times b, in Hz. -/
def Item.binHz (i : Item) (b : Nat) : Vals := valF (b * grHz * 2 ^ 24) (i.r * i.pNom * 2 ^ i.fftN)

/-- Two lists combined entry by entry. -/
def zipBins (f : Nat → Nat → Nat) (a b : List Nat) : List Nat := (a.zip b).map fun x => f x.1 x.2

/-- Sum or largest of each bin over the records; none for no record. -/
def foldBins (f : Nat → Nat → Nat) : List SpecRecord → List Nat
  | [] => []
  | r :: rs => rs.foldl (fun a x => zipBins f a x.bins) r.bins

/-- The values of a SPECTRUM (R212). It is not said whether TOTAL adds the bins before or after their rounding to BF36: before
(DESIGN CHOICE, log 187). -/
def spectrumValues (i : Item) (rs : List SpecRecord) : Result :=
  let used := rs.filter fun r => !r.discarded
  let n := if i.maxHold then 1 else used.length
  let bins := foldBins (if i.maxHold then max else fun a b => a + b) used
  result ([valC used.length, valC (rs.length - used.length), i.binHz 1, valBF (sumN (bins.drop 1)) (n * binUnit)] ++
    (range2 i.binLo i.binHi).map fun b => valBF (bins.getD b 0) (n * binUnit)) (1 ≤ used.length)

/-! ## Decomposition (R213, R214) -/

/-- round(2Q × 2^20). -/
def twoQ (exp : Nat) : Nat :=
  let t := [9507, 10399, 11224, 11996, 12723, 13412, 14069, 14698, 15301, 15883, 16444]
  (roundDiv (t.getD (exp - 6) 0 * 2 ^ 20 : Nat) 1000).toNat

/-- A number put into a list in ascending order. -/
def insertSorted (x : Nat) : List Nat → List Nat
  | [] => [x]
  | y :: r => if x ≤ y then x :: y :: r else y :: insertSorted x r

def lowerMedian (l : List Nat) : Nat := (l.foldr insertSorted []).getD ((l.length - 1) / 2) 0

/-- Bins whose median is the floor of bin b. -/
def floorBins (b half : Nat) : List Nat :=
  ((List.range (b + 35)).drop (b - 34)).filter fun x =>
    2 ≤ x && x ≤ half && (x + 4 ≤ b || b + 4 ≤ x)

/-- Bin b is a line. Bin N/2 + 1, which does not exist, counts as 0 in the test of bin N/2: R213 does not say (DESIGN
CHOICE, log 189). -/
def isLine (bins : List Nat) (half lineK b : Nat) : Bool :=
  let p := fun x => bins.getD x 0
  let fl := floorBins b half
  16 ≤ fl.length && p (b - 1) ≤ p b && p (b + 1) < p b && lineK * lowerMedian (fl.map p) < p b

/-- A bin put into a list by falling power, lower bin first on a tie. -/
def insertByPower (p : Nat → Nat) (x : Nat) : List Nat → List Nat
  | [] => [x]
  | y :: r => if p y < p x ∨ (p y = p x ∧ x < y) then x :: y :: r else y :: insertByPower p x r

/-- Lines kept: by falling power, none within 3 bins of one kept before. -/
def keepLines (p : Nat → Nat) (ls : List Nat) : List Nat :=
  (ls.foldr (insertByPower p) []).foldl (fun kept b =>
    if kept.any fun x => decide (x ≤ b + 3 ∧ b ≤ x + 3) then kept else kept ++ [b]) []

/-- The values of a DECOMP (R213). It is not said whether its tests and sums take the mean spectrum as rounded to BF36: they
take it exact (DESIGN CHOICE, log 188). -/
def decompValues (i : Item) (rs : List SpecRecord) : Result :=
  let used := rs.filter fun r => !r.discarded
  let n := used.length
  let half := 2 ^ i.fftN / 2
  let bins := foldBins (fun a b => a + b) used
  let p := fun x => bins.getD x 0
  let lines := keepLines p ((range2 2 half).filter (isLine bins half i.lineK))
  let pl := fun b => p (b - 1) + p b + p (b + 1)
  let sumL := sumN (lines.map pl)
  let rms := fun (x : Nat) => isqrt (x * 2 ^ 24 / (max 1 n * 2 ^ 40 * binUnit))
  let rj := rms (sumN (bins.drop 2) - sumL)
  let dj := sumN (lines.map fun b => 2 * rms (2 * pl b))
  let tj := dj + (roundDiv (twoQ i.berExp * rj : Nat) (2 ^ 20)).toNat
  let top := (lines.foldr (insertByPower pl) []).take 16
  result ([valS72 (rj : Nat), valS72 (rms sumL : Nat), valS72 (dj : Nat), valS72 (tj : Nat), valC lines.length, valC n] ++
    (List.range 16).flatMap fun j => match top[j]? with
      | some b => [i.binHz b, valBF (pl b) (n * binUnit)]
      | none => [valC 0, valW 0]) (1 ≤ n)

/-! ## Masks (R215 to R217) -/

/-- Bins of a segment for a SPECTRUM item. -/
def Segment.bins (g : Segment) (i : Item) (bins : List Nat) : List Nat :=
  let w := i.r * i.pNom * 2 ^ i.fftN
  (bins.zipIdx.filter fun x => g.fLo * w ≤ x.2 * grHz * 2 ^ 24 && x.2 * grHz * 2 ^ 24 < g.fHi * w).map fun x => x.1

/-- Measured value of a segment, none where it holds no bin. -/
def Segment.measure (g : Segment) (i : Item) (bins : List Nat) : Option Nat :=
  match g.bins i bins with
  | [] => none
  | l => some (if g.band then sumN l else maxN l)

/-- The larger of two ratios, the first on a tie. -/
def worse (a b : Nat × Nat × Nat) : Nat × Nat × Nat := if a.1 * b.2.1 < b.1 * a.2.1 then b else a

/-- A record of SPECTRUM item `i` against a mask. -/
def testRecord (i : Item) (mask : List Segment) (r : SpecRecord) : MaskResult :=
  let ms := mask.zipIdx.filterMap fun x => (x.1.measure i r.bins).map fun m => (m, bfValue x.1.limit * binUnit, x.2)
  let w := ms.foldl worse (0, 1, 0)
  { frame := r.frame, violated := (ms.filter fun x => x.2.1 < x.1).map fun x => x.2.2, worstNum := w.1, worstDen := w.2.1,
    worstSeg := w.2.2, sat := r.sat }

/-- The run of violating records after one more. -/
def runAfter (run : Nat) (m : MaskResult) : Nat := if m.violated = [] then 0 else run + 1

/-- The worse of two records' ratios, the lower segment on a tie. -/
def worseResult (a b : MaskResult) : MaskResult :=
  if a.worstNum * b.worstDen < b.worstNum * a.worstDen then b
  else if a.worstNum * b.worstDen = b.worstNum * a.worstDen ∧ b.worstSeg < a.worstSeg then b
  else a

def maskValues (ts : List MaskResult) : Result :=
  let bad := ts.filter fun t => t.violated != []
  let hits := listMask (bad.flatMap fun t => t.violated)
  let w := match ts with
    | [] => (0, 1, 0)
    | t :: r => let x := r.foldl worseResult t; (x.worstNum, x.worstDen, x.worstSeg)
  result [valC ts.length, valC bad.length, valW ((bad.head?.map fun t => t.frame).getD 0), valW (hits / 2 ^ 32),
    valW (hits % 2 ^ 32), valW w.2.2, valBF (w.1 * 2 ^ 40) w.2.1] (1 ≤ ts.length)

end Sys2Proof.Machine
end

