-- ==== Sys2Proof/Machine/Gates.lean ====
section
/-! DEFINITION. Gates and arming, the work of a frame, readings with their flags, overruns and the result ring (06
R152 to R158, 07 R186 to R190, 12 R307 to R310). The work of frame n is done at tick n+2. -/

namespace Sys2Proof.Machine

/-- The description of a frame. -/
def Dev.info (d : Dev) (f : Nat) : Option FrameInfo := d.survey.frames.find? fun i => i.frame == f

/-- The frame was a gated frame of R152. -/
def Dev.gatedAt (d : Dev) (f : Nat) : Bool :=
  match d.info f with
  | some i => i.gated
  | none => false

/-- The definition governs the frame. -/
def ItemRun.covers (r : ItemRun) (f : Nat) : Bool :=
  r.from_ ≤ f && (match r.until_ with
    | some u => decide (f < u)
    | none => true)

/-! ## Opening (R154, R155) -/

/-- ARM_FRAME is this frame or lies behind it, on the circle of R177. -/
def Item.reached (i : Item) (f : Nat) : Bool := (f + 2 ^ 40 - i.armFrame % 2 ^ 40) % 2 ^ 40 < 2 ^ 39

/-- A gate that may open at frame f. -/
def Item.openAt (i : Item) (f : Nat) : GatePhase := if i.gateMode = 2 then .wait else .opened f none

/-- The first gate of an item that may open from frame f on. -/
def Item.firstGate (i : Item) (f : Nat) : GatePhase :=
  if i.armMode = 0 then i.openAt f else if i.armMode = 1 && i.reached f then i.openAt f else .arm

/-- The phase at the tick that opens gated frame f: a gate open across a break (HOLD, a change of the edges kept) is
abandoned and opened afresh. -/
def ItemRun.phaseAt (r : ItemRun) (f : Nat) (fresh : Bool) : GatePhase :=
  match r.phase with
  | .idle => r.item.firstGate f
  | .arm => if r.item.armMode = 1 && r.item.reached f then r.item.openAt f else .arm
  | .opened s e => if s < f && fresh then r.item.openAt f else .opened s e
  | .wait => .wait
  | .spent => .spent

/-- A gate of the item opens at frame f. -/
def GatePhase.opensAt (p : GatePhase) (f : Nat) : Bool :=
  match p with
  | .opened s _ => s == f
  | _ => false

/-- First frame of the gate that holds frame f. -/
def GatePhase.start (p : GatePhase) (f : Nat) : Option Nat :=
  match p with
  | .opened s _ => if s ≤ f then some s else none
  | _ => none

/-- Channels whose edges the item takes. -/
def Item.channels (i : Item) : List Nat := i.ch.filter fun c => decide (c < 96)

/-- Gated frame f begins for the item: `zero` at the run's first gated frame, at RESUME and at its definition. A FILTERED
item's grid lasts beyond its gates, for its filter runs on (R204). -/
def ItemRun.begin (r : ItemRun) (info : FrameInfo) (zero : Bool) : ItemRun :=
  let f := info.frame
  let p := r.phaseAt f (zero || r.item.channels.any fun c => decide (c ∈ info.selChanged))
  let a := { r with phase := p }
  let b := if zero then
      { a with filter := Filter.zero, grid := [], taken := 0, samples := if r.item.kind = kFiltered then [] else a.samples }
    else a
  if p.opensAt f then
    { b with count := 0, grid := [], taken := 0, recordsCut := 0, tests := [],
             samples := if r.item.kind = kFiltered then b.samples else [],
             records := b.records.filter fun x => decide (f ≤ x.frame) }
  else b

/-! ## The work of a frame on one item -/

/-- Role A's selected sense, BOTH for the kinds that fix their senses. -/
def Item.senseA (i : Item) : Nat := i.roleSense 0

/-- Edges of a role over frames. -/
def Dev.edgesOver (d : Dev) (c sense : Nat) (fs : List FrameInfo) : List Int := fs.flatMap fun i => d.sel c sense i.frame

/-- Frames lo to hi that the device keeps, in order. -/
def Dev.framesFrom (d : Dev) (lo hi : Nat) : List FrameInfo :=
  (d.survey.frames.filter fun i => lo ≤ i.frame && i.frame ≤ hi).reverse

/-- The end of a frame in gr. -/
def FrameInfo.endGr (i : FrameInfo) : Nat := (i.tick + i.length) * 4096

/-- The grid of an item's gate through gated frame `info`, and the stream samples completed in the frame (R168, R183);
`s` is the gate's first frame. -/
def Dev.rawStream (d : Dev) (info : FrameInfo) (r : ItemRun) (s : Nat) : List GridSeg × List Sample :=
  let f := info.frame
  let edges := d.edgesOver (r.item.ch.getD 0 0) (r.item.sense.getD 0 0) (d.framesFrom s f)
  let grid := r.grid ++ (gridSeg r.grid edges info.endGr (r.step.getD r.item.pNom)).toList
  (grid, newSamples grid (edges.map (tieOf grid)) r.item.r f info.endGr
    (sumN (grid.map GridSeg.points) / r.item.r + 1) r.taken)

/-- A FILTERED item takes the samples of gated frame `info`, with the set bound in it; `s` is the first frame whose edges
can be in them. -/
def Dev.filterItem (d : Dev) (info : FrameInfo) (r : ItemRun) (s : Nat) : ItemRun :=
  let q := d.rawStream info r s
  let set := if r.item.coefSet < 32 then
      some ((versionAt (d.survey.coefSets.getD r.item.coefSet []) info.frame).getD CoefSet.empty)
    else none
  let u := { r.filter with clamped := false }.runAll r.item set q.2
  { r with grid := q.1, taken := r.taken + q.2.length, filter := u.1, samples := r.samples ++ u.2 }

/-- Twice the span of a stream sample in gr, the widest of the grid's steps taken. -/
def ItemRun.sampleSpan (r : ItemRun) : Nat := 2 * ceilDiv (r.item.r * max r.item.pNom (r.step.getD 0)) (2 ^ 24)

/-- The first frame whose edges a sample can hold that is completed from coarse count `tick` on. -/
def Dev.lookFrom (d : Dev) (r : ItemRun) (tick f : Nat) : Nat :=
  d.survey.frames.foldl (fun m i => if tick * 4096 ≤ i.endGr + r.sampleSpan then min m i.frame else m) f

/-- The first frame whose edges gated frame `info` can use for the stream of an item: that of its gate. While no gate is open the
grid of the last runs on (R168, R183); before the first gate there is none (DEDUCED, log 70). -/
def Dev.streamFrom (d : Dev) (info : FrameInfo) (r : ItemRun) : Option Nat :=
  match r.phase.start info.frame with
  | some s => some s
  | none => if r.grid = [] then none else some (d.lookFrom r info.tick info.frame)

/-- The grid and the stream of an NCO item in gated frame `info`; the item keeps the samples where `own`, in its gate. -/
def Dev.runStream (d : Dev) (info : FrameInfo) (r : ItemRun) (own : Bool) : ItemRun :=
  match d.streamFrom info r with
  | none => r
  | some s =>
    if r.item.kind = kFiltered then d.filterItem info r s
    else
      let q := d.rawStream info r s
      { r with grid := q.1, taken := r.taken + q.2.length, samples := if own then r.samples ++ q.2 else r.samples }

/-- The stream and the counts of an item in gated frame `info`. The stream of the NCO, and with it the state of a filter (R204),
runs on while no gate is open. -/
def Dev.streamItem (d : Dev) (info : FrameInfo) (r : ItemRun) : ItemRun :=
  let own := (r.phase.start info.frame).isSome
  let a := if own then { r with count := r.count + (d.sel (r.item.ch.getD 0 0) r.item.senseA info.frame).length } else r
  if r.item.usesNco then d.runStream info a own else a

/-- The samples that an analysis takes: its own stream's, or those of its FILTERED item, in its gate. -/
def sourceOf (items : List ItemRun) (r : ItemRun) (start f : Nat) : List Sample :=
  let l := if r.item.srcFiltered then
      ((items.find? fun x => x.num == r.item.srcItem && x.covers f).map fun x => x.samples).getD []
    else r.samples
  l.filter fun s => decide (start ≤ s.frame ∧ s.frame ≤ f)

/-- A SPECTRUM or DECOMP item cuts its records. -/
def recordItem (items : List ItemRun) (k f : Nat) (r : ItemRun) : ItemRun :=
  match r.phase.start f with
  | some s =>
    if r.item.kind = kSpectrum ∨ r.item.kind = kDecomp then
      let ss := sourceOf items r s f
      let new := newRecords r.item k ss (2 * ss.length / 2 ^ r.item.fftN + 1) r.recordsCut
      { r with records := r.records ++ new, recordsCut := r.recordsCut + new.length }
    else r
  | none => r

/-- The work of the item in the frame was not done. -/
def Survey.overrunFor (s : Survey) (i : Item) (f : FrameInfo) : Bool :=
  f.lateAll || (match (s.placement.getD (i.ch.getD 0 0 % 31) none) with
    | some g => decide (g ∈ f.lateGroups)
    | none => false)

/-- A MASKTEST item tests the records attributed to frame f, with a run of violations that starts at 0 where `reset` holds,
at its definition and at RESUME. Work that is abandoned tests none and asserts nothing (R198). -/
def Dev.maskItem (d : Dev) (items : List ItemRun) (info : FrameInfo) (reset : Bool) (r0 : ItemRun) : ItemRun :=
  let f := info.frame
  let r := if reset then { r0 with violRun := 0 } else r0
  if r.item.kind != kMasktest then r
  else if d.survey.overrunFor r.item info then { r with asserted := [] }
  else
    match items.find? fun x => x.num == r.item.srcItem && x.covers f with
    | none => r
    | some sp =>
      let mask := (versionAt (d.survey.masks.getD r.item.mask []) f).getD []
      let ts := ((sp.records.filter fun x => x.frame == f && !x.discarded).map (testRecord sp.item mask))
      let q := ts.foldl (fun (st : Nat × Bool) t =>
        let n := runAfter st.1 t
        (n, st.2 || decide (r.item.trigCount ≤ n))) (r.violRun, false)
      let inGate := (r.phase.start f).isSome
      { r with violRun := q.1, tests := if inGate then r.tests ++ ts else r.tests,
               asserted := if inGate && q.2 then [f] else [] }

/-! ## Closing (R152, R156) -/

/-- Edges of a TRIG line in order: the end of the open gate, if it is fixed, and the next gate that a rise opens. -/
def trigScan (f : Nat) (st : Option Nat × Option (Option Nat)) (rising : Bool) : Option Nat × Option (Option Nat) :=
  if rising then (if st.1.isSome && st.2.isNone then (st.1, some none) else st)
  else match st.2 with
    | some none => (st.1, some (some (f + 1)))
    | some (some _) => st
    | none => if st.1.isNone then (some f, none) else st

/-- Edges of a line in a frame. -/
def FrameInfo.edgesOf (i : FrameInfo) (line : Nat) : List Bool :=
  (i.trig.filter fun x => x.1 == line).map fun x => x.2

/-- The phase after the gate that ends with frame f. -/
def Item.afterGate (i : Item) (f : Nat) (next : Option (Option Nat)) : GatePhase :=
  if !i.continuous then .spent
  else if i.gateMode != 2 then .opened (f + 1) none
  else match next with
    | some e => .opened (f + 1) e
    | none => .wait

/-- The item at the end of gated frame f, and whether its gate closes. -/
def ItemRun.finish (r : ItemRun) (info : FrameInfo) : ItemRun × Bool :=
  let f := info.frame
  let i := r.item
  match r.phase with
  | .arm => if i.armMode = 2 && decide (true ∈ info.edgesOf i.armTrig) then ({ r with phase := .opened (f + 1) none }, false)
      else (r, false)
  | .wait =>
    match ((info.edgesOf i.gateTrig).foldl (trigScan f) (some f, none)).2 with
    | some e => ({ r with phase := .opened (f + 1) e }, false)
    | none => (r, false)
  | .opened s e =>
    if f < s then (r, false)
    else
      let q := if i.gateMode = 2 then (info.edgesOf i.gateTrig).foldl (trigScan f) (e, none) else (none, none)
      let closes :=
        if i.gateMode = 0 then s + i.gateLen ≤ f + 1 else if i.gateMode = 1 then i.gateLen ≤ r.count else q.1.isSome
      if closes then ({ r with phase := i.afterGate f q.2 }, true)
      else (r, false)
  | _ => (r, false)

/-! ## Readings (R158, R189, R190) -/

/-- A comparator whose edges channel c stamps was UNSETTLED in the frame, and was SETTLED at some moment of it. -/
def Dev.unsettledIn (d : Dev) (c f : Nat) : Bool × Bool :=
  let p := (d.chan (partnerOf c)).record f
  let r := (d.chan c).record f
  if p.cfg.bFunc = .partner then (p.unsettledB, p.settledB) else (r.unsettledA, r.settledA)

/-- The stops of the run around the frames `start` to f: the last one before them, however far back from the run's first gated
frame on, with its frame, and those of the frame after them. No later frame is over when a reading is due (DEDUCED, log 137),
and no stop outside the run counts: it must not make two runs differ (R193). -/
def Dev.stopsAround (d : Dev) (c sense start f : Nat) : Option (Nat × Int) × List Int :=
  ((d.lastSel c sense start).filter fun x => decide (((d.info f).map FrameInfo.runFrom).getD 0 ≤ x.1),
   if (d.info (f + 1)).any FrameInfo.inRun then d.sel c sense (f + 1) else [])

/-- A gate's values as the kind gives them, and whether samples that it uses were clamped. -/
def Dev.valuesOf (d : Dev) (items : List ItemRun) (r : ItemRun) (fs : List FrameInfo) (start f : Nat) : Result × Bool :=
  let i := r.item
  if isAnalysis i.kind then
    let ss := if i.kind = kFiltered then r.samples.filter fun s => decide (start ≤ s.frame) else sourceOf items r start f
    let rs := r.records.filter fun x => decide (start ≤ x.frame ∧ x.frame ≤ f)
    let sat := ss.any fun s => s.saturated
    let rsat := rs.any fun x => !x.discarded && x.sat
    if i.kind = kFiltered then (filteredValues ss, sat)
    else if i.kind = kSpectrum then (spectrumValues i rs, rsat)
    else if i.kind = kDecomp then (decompValues i rs, rsat)
    else if i.kind = kMasktest then (maskValues r.tests, r.tests.any fun t => t.sat)
    else (deviationValues i ss, sat)
  else
    let edges := fun ro sense => d.edgesOver (i.ch.getD ro 0) sense fs
    let g : Gate :=
      { item := i, frames := fs, edges := edges,
        decim := fun ro => ((d.chan (i.ch.getD ro 0)).record start).cfg.decim
        around := fun ro sense =>
          let c := i.ch.getD ro 0
          let a := d.stopsAround c sense start f
          (a.1.map fun x => x.2, a.2.head?)
        ties := if i.usesNco then (edges 0 (i.sense.getD 0 0)).map (tieOf r.grid) else [] }
    (g.values, false)

/-- The items whose results in frame f item r takes: that of its source stream, or the SPECTRUM that it tests. -/
def sourcesOf (items : List ItemRun) (f : Nat) (r : ItemRun) : List ItemRun :=
  if (hasSrc r.item.kind && r.item.srcFiltered) || r.item.kind == kMasktest then
    (items.find? fun x => x.num == r.item.srcItem && x.covers f).toList
  else []

/-- The items whose engines' values a reading of item r uses: its own, its sources' and theirs (R197). -/
def usedItems (items : List ItemRun) (f : Nat) (r : ItemRun) : List ItemRun :=
  let l := sourcesOf items f r
  r :: l ++ l.flatMap (sourcesOf items f)

/-- The reading of a gate's frames `start` to f. -/
def Dev.reading (d : Dev) (items : List ItemRun) (r : ItemRun) (start f : Nat) (runs : Bool) : List Word :=
  let i := r.item
  let fs := d.framesFrom start f
  let chs := i.channels
  let recs := chs.flatMap fun c => fs.map fun x => (d.chan c).record x.frame
  let uns := chs.map fun c => fs.map fun x => d.unsettledIn c x.frame
  let unsettled := uns.any fun l => l.any fun x => x.1
  let never := uns.any fun l => l.all fun x => !x.2
  let down := recs.any fun x => x.bankDown
  let empty := (List.range 4).any fun ro =>
    let c := i.ch.getD ro unusedCh
    decide (c < 96) && (d.edgesOver c (i.roleSense ro) fs).isEmpty
  let noSignal := empty || never || down || recs.any fun x => x.switched
  let overrun := fs.any fun x => d.survey.overrunFor i x
  let lost := recs.any fun x => x.lostFifo + x.lostCheck != 0
  let q := d.valuesOf items r fs start f
  let counts := i.kind == kCount || i.kind == kHistogram
  let zero := !q.1.present || overrun || noSignal
  let vals := if zero then List.replicate i.valueWords 0 else q.1.vals.words
  let stuck := d.survey.sticky.any fun x =>
    decide (start ≤ x.1 ∧ x.1 ≤ f) && d.survey.placement.getD (i.ch.getD 0 0 % 31) none == some x.2.1 &&
      (usedItems items f r).any fun y => x.2.2 == (Config.engineOf y.num).val
  let sat := (recs.any fun x => x.saturated) || (!zero && (q.1.vals.sat || q.2 || stuck))
  let adapt := (fs.filter fun x => x.adapted).length
  let last := fs.getLast?
  -- a COUNT or HISTOGRAM with no edges keeps VALID, but not where R46 clears it
  let valid := q.1.present && !overrun && !lost && !sat && !(noSignal && (never || !(counts && empty)))
  let flags := packNat [(0, 0, b2n valid), (1, 1, b2n runs), (2, 2, b2n overrun), (3, 3, b2n lost), (4, 4, b2n sat),
    (5, 5, b2n unsettled), (6, 6, b2n noSignal), (7, 7, b2n (fs.any fun x => x.cold)),
    (8, 8, b2n (fs.any fun x => x.holdover)), (9, 9, b2n (recs.any fun x => x.calSlew)),
    (10, 10, b2n q.1.coincident),
    (11, 11, b2n (match fs.head?, last with
      | some a, some b => decide (a.tick / 2 ^ 48 < b.tick / 2 ^ 48)
      | _, _ => false)),
    (12, 12, b2n (adapt != 0)), (13, 13, b2n (fs.any fun x => x.refStep)),
    (14, 14, b2n (isAnalysis i.kind && i.kind != kMasktest))]
  [word [(35, 28, i.kind), (27, 16, r.num), (15, 0, flags)], w36 f,
   word [(35, 20, (last.map fun x => x.gen.toNat).getD 0), (19, 8, (last.map fun x => x.epoch).getD 0),
     (7, 0, min 255 adapt)]] ++ vals

/-! ## The work of a frame on the survey (R15, R156) -/

/-- A reading that a frame publishes. -/
structure Published where
  num : Nat
  running : Bool
  words : List Word
  deriving DecidableEq, Repr

/-- P_f of every NCO item in a frame of a run. P of the frame before is that of the channel's NCO, also for an item defined
since. In the lead-in frame there is none yet, and nothing is left of an earlier run (R193). -/
def Dev.stepItem (d : Dev) (info : FrameInfo) (r : ItemRun) : ItemRun :=
  if info.leadIn then { r with step := none, phase := .idle, asserted := [], records := [] }
  else if info.inRun && r.item.usesNco then
    { r with step := some (d.stepAt r.item (r.step.or (d.survey.steps.lookup (r.item.ch.getD 0 0))) info.frame) }
  else r

/-- P of each channel's NCO in a frame worked. -/
def stepsOf (items : List ItemRun) (f : Nat) : List (Nat × Nat) :=
  items.filterMap fun r => if r.covers f && r.item.usesNco then r.step.map fun p => (r.item.ch.getD 0 0, p) else none

/-- A change of the items that govern frame f. -/
def onCovering (f : Nat) (l : List ItemRun) (g : ItemRun → ItemRun) : List ItemRun :=
  l.map fun r => if r.covers f then g r else r

/-- The items at the end of the work of frame `info`, before gates close. -/
def Dev.itemsWorked (d : Dev) (info : FrameInfo) (items : List ItemRun) : List ItemRun :=
  let f := info.frame
  let a := onCovering f items (d.stepItem info)
  if !info.gated then a
  else
    let prev := d.gatedAt (f - 1)
    let lead := (d.info (f - 1)).any FrameInfo.leadIn
    let b := onCovering f a fun r => d.streamItem info (r.begin info (!prev || r.from_ == f))
    let c := onCovering f b (recordItem b info.k f)
    onCovering f c fun r => d.maskItem c info ((!prev && !lead) || r.from_ == f) r

/-- The readings of frame f in ascending item number, from worked items. -/
def Dev.readingsOf (d : Dev) (info : FrameInfo) (items : List ItemRun) : List Published :=
  if !info.gated then []
  else items.filterMap fun r =>
    if !r.covers info.frame then none
    else match r.phase.start info.frame with
      | none => none
      | some s =>
        let closes := (r.finish info).2
        if closes || !r.item.noPartial then
          some { num := r.num, running := !closes, words := d.reading items r s info.frame (!closes) }
        else none

/-- Items after frame f: gates closed, definitions that govern no later frame dropped. -/
def itemsAfterFrame (info : FrameInfo) (items : List ItemRun) : List ItemRun :=
  let l := if info.gated then onCovering info.frame items fun r => (r.finish info).1 else items
  l.filter fun r => match r.until_ with
    | some u => decide (info.frame + 1 < u)
    | none => true

/-! ## Overruns (R186) -/

/-- Some work of the frame was due and not done; with STAMP, CAPTURE or COMPASS down every gated frame is OVERRUN (R380). -/
def Survey.overrunFrame (s : Survey) (info : FrameInfo) : Bool :=
  info.gated && (info.lateAll || s.items.any fun r => r.covers info.frame && s.overrunFor r.item info)

/-- An overrun frame at its deadline. -/
def Dev.overrunTick (d : Dev) (info : FrameInfo) : Dev :=
  if d.survey.overrunFrame info then
    (((d.onSurvey fun s => { s with overruns := s.overruns + 1, lateness := max s.lateness info.lateness }).log 0x9 0
      d.tb.frame 0).setFlag flagOverrun).pulse 317
  else d

/-! ## The result ring (R307 to R310) -/

def ringBase : Nat := 0xFFA00000
def ringWords : Nat := 4194304

/-- Words of the jobs that wait. -/
def Ring.queued (r : Ring) : Nat := sumN (r.jobs.map fun j => j.words.length)

/-- One more batch counts towards NOTIFY_EVERY: the count, and whether source 316 is due after it. -/
def Ring.counted (r : Ring) : Ring × Bool :=
  let n := r.batchCount + 1
  if r.cfg.notifyEvery ≤ n then ({ r with batchCount := 0 }, r.cfg.notify) else ({ r with batchCount := n }, false)

/-- A batch dropped whole. -/
def Ring.dropBatch (r : Ring) (readings : Nat) : Ring :=
  { r with dropBatches := clampU 32 (r.dropBatches + 1), dropReadings := clampU 32 (r.dropReadings + readings) }

/-- Batches dropped count towards DROPPED of the next batch: the oldest that waits, or the next one offered. -/
def Ring.carry (r : Ring) (n : Nat) : Ring :=
  match r.jobs with
  | j :: rest => { r with jobs := { j with dropped := j.dropped + n } :: rest }
  | [] => { r with droppedRun := r.droppedRun + n }

/-- A batch offered to the copy engine at a tick, or dropped. -/
def Dev.offerBatch (d : Dev) (batch : List Word) (readings : Nat) : Dev :=
  let r := d.ring
  if !r.cfg.dma then d
  else
    let w := batch.length
    let q := r.queued
    if w + q ≤ 2 ^ r.cfg.hlenLog2 - (r.hwc - r.hrc) && decide (w + q ≤ 2 ^ 21) && d.canRequest then
      d.onRing fun x => { x with jobs := x.jobs ++ [{ words := batch, readings := readings, dropped := x.droppedRun }], droppedRun := 0 }
    else
      let c := { r.dropBatch readings with droppedRun := r.droppedRun + 1 }.counted
      (d.onRing fun _ => c.1).when c.2 fun e => e.pulse 316

/-- The batch of a frame: header and readings. -/
def batchOf (f : Nat) (ps : List Published) : List Word :=
  let body := ps.flatMap fun p => p.words
  word [(35, 32, 0xB), (23, 0, body.length)] :: w36 f :: body

/-- A reading joins the store of R188. -/
def storeReading (l : List (Nat × List Word × List Word)) (p : Published) : List (Nat × List Word × List Word) :=
  let old := (l.lookup p.num).getD ([], [])
  (p.num, if p.running then (old.1, p.words) else (p.words, old.2)) :: l.filter fun x => x.1 != p.num

/-- The batch of frame f becomes visible. -/
def Dev.publish (d : Dev) (f : Nat) (ps : List Published) : Dev :=
  let batch := batchOf f ps
  let d1 := d.onCap fun c =>
    c.put (Mem.ringWrites c.mem ringBase ringWords 0 d.ring.wc batch) (ringSpan ringBase ringWords 0 d.ring.wc batch.length)
  let d2 := d1.onRing fun r => { r with wc := r.wc + batch.length }
  (d2.onSurvey fun s => { s with store := ps.foldl storeReading s.store }).offerBatch batch ps.length

/-- What the work of a frame gives to those who take it further: the frame, its items before gates close, and the
readings published. -/
structure Worked where
  info : FrameInfo
  items : List ItemRun
  readings : List Published
  deriving DecidableEq, Repr

/-- The sticky bits that the engines have set in the work of a frame join those of the frames that a gate can still hold
(R197). -/
def Dev.stickyTick (d : Dev) (info : FrameInfo) (items : List ItemRun) : Dev :=
  let new := items.filterMap fun r =>
    if r.covers info.frame && r.item.kind == kFiltered && r.filter.clamped then
      (d.survey.placement.getD (r.item.ch.getD 0 0 % 31) none).map fun g => (info.frame, g, (Config.engineOf r.num).val)
    else none
  d.onSurvey fun s => { s with sticky := new ++ s.sticky.filter fun x => s.frames.any fun i => i.frame == x.1 }

/-- The work of frame n = f − 2 at tick f: overruns, readings, the batch, gates. -/
def Dev.workTick (d : Dev) : Dev × Option Worked :=
  match d.info (d.tb.frame - 2) with
  | none => (d, none)
  | some info =>
    if d.tb.frame < 2 ∨ !info.unpublished then (d, none)
    else
      let items := d.itemsWorked info d.survey.items
      let d0 := d.stickyTick info items
      let ps := d0.readingsOf info items
      let d1 := (d0.overrunTick info).onSurvey fun s => { s with items := itemsAfterFrame info items, steps := stepsOf items info.frame }
      if info.inRun && d.partUp partCapture then (d1.publish info.frame ps, some ⟨info, items, ps⟩)
      else (d1, some ⟨info, items, []⟩)

/-- RING_COPY_DONE: the oldest batch reaches host memory, then HWC is written back and advances. A batch that met an
uncorrectable word, or finds the link or CAPTURE gone (R377; DEDUCED, log 195), is dropped whole. The header's DROPPED counts the batches dropped since the one
copied before. -/
def Dev.copyDone (d : Dev) : Dev :=
  match d.ring.jobs with
  | [] => d
  | j :: rest =>
    let r := d.ring
    let w := j.words.length
    if r.damaged || !d.canRequest || !d.partUp partCapture then
      let c := (({ r with jobs := rest, damaged := false }.dropBatch j.readings).carry (j.dropped + 1)).counted
      (d.onRing fun _ => c.1).when c.2 fun e => e.pulse 316
    else
      let head := (j.words.headD 0) ||| word [(30, 24, min 127 j.dropped)]
      let lanes := (head :: j.words.drop 1).zipIdx.map fun x =>
        (r.cfg.hbase.toNat + 8 * ((r.hwc + x.2) % 2 ^ r.cfg.hlenLog2), x.1.setWidth 64)
      let hwc := r.hwc + w
      let c := { r with jobs := rest, hwc := hwc, hostWrites := lanes ++ [(r.cfg.wb.toNat, BitVec.ofNat 64 hwc)] }.counted
      (d.onRing fun _ => c.1).when c.2 fun e => e.pulse 316

def execRingCopyDone (s : State) : Host.Outcome State Fault Refusal := doneDev s s.dev.copyDone

/-- GS_RING_HRC (R310). -/
def Ring.writeHrc (r : Ring) (v : Lane) : Ring := { r with hrc := max r.hrc (min v.toNat r.hwc) }

def execGsRingHrcWrite (value : Lane) (s : State) : Host.Outcome State Fault Refusal :=
  doneDev s (if s.watch.perstN && s.dev.partUp partHost then s.dev.onRing fun r => r.writeHrc value else s.dev)

end Sys2Proof.Machine
end

