-- ==== Sys2Proof/Machine/Flash.lean ====
section
/-! DEFINITION. The flash: targets and their qualification, blocks, the turn in which pages are taken, programs in progress,
moves of data between blocks, retirement, wear and reclaim (11 R267 to R271, R281 to R286, R289). -/

namespace Sys2Proof

/-! ## Targets (R267 to R269) -/

/-- Blocks of a target. -/
def Target.blocks (t : Target) : Nat := t.planes * t.blocksPerPlane

/-- KiB of a block. -/
def Target.blockKiB (t : Target) : Nat := t.pagesPerBlock * t.pageKiB

/-- The conditions of R268: one bit per cell or a qualified part, page and spare sizes, rated cycles, tPROG and tBERS. -/
def Target.suitable (t : Target) : Bool :=
  (t.oneBit || t.qualified) && (t.pageKiB == 8 || t.pageKiB == 16) && 448 ≤ t.spare && 10000 ≤ t.ratedCycles &&
    t.tProg ≤ 400 && t.tBers ≤ 10000

/-- Two targets report the same geometry. -/
def Target.sameAs (t u : Target) : Bool :=
  t.pageKiB == u.pageKiB && t.planes == u.planes && t.blocksPerPlane == u.blocksPerPlane && t.pagesPerBlock == u.pagesPerBlock

end Sys2Proof

namespace Sys2Proof.Machine

/-- The first target that does not serve: unsuitable, or of another geometry than the first. -/
def firstBadTarget (ts : List Target) : Option Nat :=
  (ts.zipIdx.find? fun x => !x.1.suitable || !(x.1.sameAs (ts.headD x.1))).map fun x => x.2

/-- The channels that carry targets. -/
def populated (ts : List Target) : List Nat := (List.range 8).filter fun c => ts.any fun t => t.channel == c

/-- Words of a sheet: header, body and trailer (R272). -/
def Sheet.size (s : Sheet) : Nat := 9 + s.body.length

/-- Stream position after the trailer. -/
def Sheet.stop (s : Sheet) : Nat := s.place + s.size

/-! ## Blocks -/

def Block.none : Block :=
  { target := 0, plane := 0, factory := false, grown := false, records := false, retiring := false, erasing := false,
    erases := 0, used := 0, pages := [], writtenAt := 0, readAt := 0 }

/-- No data goes into it any more. -/
def Block.bad (b : Block) : Bool := b.factory || b.grown || b.retiring

/-- Erased and at hand. -/
def Block.free (b : Block) : Bool := !b.bad && !b.records && !b.erasing && b.used == 0

/-- It holds codewords of the stream. -/
def Block.holds (b : Block) : Bool := !b.pages.isEmpty && !b.erasing

def Atlas.block (a : Atlas) (n : Nat) : Block := a.blocks.getD n Block.none

def Atlas.updBlock (a : Atlas) (n : Nat) (f : Block → Block) : Atlas := { a with blocks := a.blocks.modify n f }

/-- The channel of a block. -/
def Atlas.channelOf (a : Atlas) (n : Nat) : Nat := ((a.targets[(a.block n).target]?).map Target.channel).getD 0

/-- Pages of a block, and KiB of it. -/
def Atlas.blockPages (a : Atlas) : Nat := (a.targets.head?.map Target.pagesPerBlock).getD 0
def Atlas.blockKiB (a : Atlas) : Nat := (a.targets.head?.map Target.blockKiB).getD 0

/-- Codewords and payload words of a page (R271). -/
def Atlas.pageCodewords (a : Atlas) : Nat := if (a.targets.head?.map Target.pageKiB).getD 16 = 16 then 4 else 2
def Atlas.pageWords (a : Atlas) : Nat := 910 * a.pageCodewords

/-- The next page boundary at or after a position. -/
def Atlas.pageEnd (a : Atlas) (x : Nat) : Nat := ceilDiv x a.pageWords * a.pageWords

/-- The blocks of the targets with the factory marks of the parameter pages, their erase counts kept (R282). -/
def freshBlocks (ts : List Target) (old : List Block) : List Block :=
  let l := ts.zipIdx.flatMap fun x => (List.range x.1.blocks).map fun i =>
    { Block.none with target := x.2, plane := i / x.1.blocksPerPlane, factory := decide (i ∈ x.1.factoryBad) }
  l.mapNum fun n b => { b with erases := if old.length = l.length then (old.getD n Block.none).erases else 0 }

/-- Usable MiB: the pSLC capacity of the good blocks over 1.12, in whole GiB, at most 512 GiB (R269). -/
def Atlas.usable (a : Atlas) : Nat :=
  min 512 ((a.blocks.countP fun b => !b.bad) * a.blockKiB * 100 / (112 * 2 ^ 20)) * 1024

/-- Spare blocks: good ones beyond the metadata area and those that the usable capacity needs. -/
def Atlas.spareBlocks (a : Atlas) : Nat :=
  (a.blocks.countP fun b => !b.bad && !b.records) - ceilDiv (a.usableMiB * 1024) a.blockKiB

/-- Free blocks that no move has taken. -/
def Atlas.freeBlocks (a : Atlas) : List (Block × Nat) :=
  a.blocks.zipIdx.filter fun x => x.1.free && a.moves.all fun m => m.dst != some x.2

/-- The first of the blocks with the smallest key. -/
def leastBlock (key : Block → Nat) (l : List (Block × Nat)) : Option Nat :=
  (l.find? fun x => l.all fun y => decide (key x.1 ≤ key y.1)).map fun x => x.2

/-- The words of the stream that blocks hold. -/
def Atlas.heldPages (a : Atlas) : List Nat := (a.blocks.filter Block.holds).flatMap fun b => b.pages

/-- Where the stream that is not reclaimed starts. -/
def Atlas.kept (a : Atlas) : Nat :=
  (a.heldPages.foldl (fun m p => min m (p * a.pageWords)) a.programmed)

/-- The blocks that hold a stream page, the older copy first. -/
def Atlas.holders (a : Atlas) (page : Nat) : List Nat :=
  let l := (a.blocks.zipIdx.filter fun x => x.1.holds && decide (page ∈ x.1.pages)).map fun x => x.2
  let copy := fun (n : Nat) => a.moves.any fun m => m.dst == some n
  (l.filter fun n => !copy n) ++ l.filter copy

/-- Words already handed to programs: they keep their place. -/
def Atlas.begun (a : Atlas) : Nat := max a.programmed (min (a.nextPage * a.pageWords) (a.laid / 910 * 910))

/-! ## Index checkpoints (R284) -/

/-- An index checkpoint, written twice, on two channels where two are populated. -/
def Atlas.mark (a : Atlas) : Atlas :=
  let chs := populated a.targets
  let two := match chs with
    | c :: d :: _ => [c, d]
    | [c] => [c, c]
    | [] => []
  { a with copies := (two.map fun c => (c, a.programmed)) ++ a.copies.take 2 }

/-- The newest checkpoint. -/
def Atlas.checkpoint (a : Atlas) : Nat := (a.copies.head?.map fun c => c.2).getD 0

/-! ## The turn (R271) -/

/-- The target and the plane that the turn-th program takes: the populated channels that are up in turn, and within a channel
its targets and planes. -/
def Atlas.placeOf (a : Atlas) (up : List Nat) (turn : Nat) : Option (Nat × Nat) :=
  match up[turn % up.length]? with
  | none => none
  | some c =>
    let ts := (a.targets.zipIdx.filter fun x => x.1.channel == c).map fun x => x.2
    let n := turn / up.length
    match ts[n % ts.length]? with
    | none => none
    | some t => some (t, n / ts.length % (a.targets.head?.map Target.planes).getD 1)

/-- The block into which the next page of a target's plane goes: the one being filled, or a free one, lowest erase count
first. A sheet takes no block of the reserve (R281). -/
def Atlas.blockFor (a : Atlas) (target plane : Nat) (sheet : Bool) : Option Nat :=
  let here := fun (b : Block) => b.target == target && b.plane == plane
  let filling := a.blocks.zipIdx.find? fun x =>
    here x.1 && !x.1.bad && !x.1.records && !x.1.erasing && x.1.used != 0 && decide (x.1.used < a.blockPages) &&
      a.moves.all fun m => m.src != x.2 && m.dst != some x.2
  match filling with
  | some x => some x.2
  | none =>
    if sheet && decide (a.freeBlocks.length ≤ a.spareBlocks) then none
    else leastBlock Block.erases (a.freeBlocks.filter fun x => here x.1)

/-- The program of a stream page starts in a block. -/
def Atlas.startProgram (a : Atlas) (page block : Nat) (copy : Bool) : Atlas :=
  { a.updBlock block fun b => { b with used := b.used + 1, pages := b.pages ++ [page] } with
    inflight := a.inflight ++ [⟨page, block, copy⟩] }

/-- Programs of the stream start, one a block: pages to be programmed again first, then the next page as soon as a codeword of
it is laid out. -/
def Atlas.startStream (a : Atlas) (up : List Nat) : Nat → Atlas
  | 0 => a
  | n + 1 =>
    let next := match a.rewrites with
      | p :: _ => some p
      | [] => if a.nextPage * a.pageWords + 910 ≤ a.laid then some a.nextPage else none
    match next, a.placeOf up a.turn with
    | some p, some (t, plane) =>
      let sheet := a.rewrites.isEmpty
      match a.blockFor t plane sheet with
      | none => { a with turn := a.turn + 1 }.startStream up n
      | some b =>
        if a.inflight.any fun x => x.block == b then a
        else
          let s := { a.startProgram p b false with turn := a.turn + 1 }
          (if sheet then { s with nextPage := p + 1 } else { s with rewrites := a.rewrites.drop 1 }).startStream up n
    | _, _ => a

/-! ## Moves of data (R283 to R285) -/

/-- A block's data is to move, unless it already does. -/
def Atlas.addMove (a : Atlas) (n : Nat) (why : MoveWhy) : Atlas :=
  if a.moves.any fun m => m.src == n then
    { a with moves := a.moves.map fun m => if m.src == n && why == .retire then { m with why := .retire } else m }
  else { a with moves := a.moves ++ [⟨n, none, (a.block n).pages, why⟩] }

/-- The block that a move fills: a free one, lowest erase count first, or for levelling the most worn one. -/
def Atlas.moveTarget (a : Atlas) (up : List Nat) (why : MoveWhy) : Option Nat :=
  let l := a.freeBlocks.filter fun x => decide (a.channelOf x.2 ∈ up)
  let most := maxN (l.map fun x => x.1.erases)
  leastBlock (fun b => if why = .level then most - b.erases else b.erases) l

/-- The next copy of a move starts, if its channels are up and no copy of it is in progress. -/
def Atlas.startMove (a : Atlas) (up : List Nat) (n : Nat) : Atlas :=
  match a.moves[n]? with
  | none => a
  | some m =>
    let full := match m.dst with
      | some b => decide (a.blockPages ≤ (a.block b).used) || a.moves.any fun x => x.src == b
      | none => true
    let dst := if full then a.moveTarget up m.why else m.dst
    match m.left, dst with
    | p :: rest, some b =>
      if a.inflight.any (fun x => x.block == b) || !decide (a.channelOf b ∈ up ∧ a.channelOf m.src ∈ up) then a
      else { a with moves := a.moves.set n { m with dst := dst, left := rest } }.startProgram p b true
    | _, _ => a

/-- Blocks that hold data for reclaim: the one with the oldest page, full and with no program or move. -/
def Atlas.oldestBlock (a : Atlas) : Option Nat :=
  let first := fun (b : Block) => b.pages.foldl min (b.pages.headD 0)
  leastBlock first (a.blocks.zipIdx.filter fun x =>
    x.1.holds && !x.1.bad && decide (a.blockPages ≤ x.1.used) && a.moves.all fun m => m.src != x.2 && m.dst != some x.2)

/-- A word of the sheet lies in one of the pages. -/
def Atlas.inPages (a : Atlas) (s : Sheet) (pages : List Nat) : Bool :=
  pages.any fun p => decide (p * a.pageWords < s.stop ∧ s.place < (p + 1) * a.pageWords)

/-- Under WRAP, free blocks at the reserve make the oldest block go, with every sheet that has a codeword in it, unless a read
copies from it (R280, R281). A checkpoint follows. -/
def Atlas.reclaim (a : Atlas) : Atlas :=
  let coming := a.blocks.countP fun b => b.erasing && !b.bad
  if a.policy.stopWhenFull || decide (a.spareBlocks < a.freeBlocks.length + coming) then a
  else match a.oldestBlock with
    | none => a
    | some n =>
      let gone := fun (s : Sheet) => a.inPages s (a.block n).pages
      let held := a.sheets.any fun s => gone s &&
        (a.reads.any (fun r => r.seq == s.seq) || decide (a.programmed < s.stop))
      if held then a
      else ({ a.updBlock n fun b => { b with pages := [], erasing := true } with
              sheets := a.sheets.filter fun s => !gone s }).mark

/-- The channels that take programs: populated, up, and in NV-DDR3. -/
def Dev.flashUp (d : Dev) : List Nat :=
  (populated d.atlas.targets).filter fun c => d.partUp (partAtlas c) && decide (c ∈ d.atlas.ddr)

/-- Hours since a block was read in full, the longest of them. -/
def Atlas.oldestHours (a : Atlas) : Nat := maxN ((a.blocks.filter Block.holds).map fun b => a.hour - b.readAt)

/-- Full passes have only blocks that still hold data before them, and one with none left is over (R285). -/
def Dev.endScrubs (d : Dev) : Dev :=
  let runs := d.atlas.scrubs.map fun r => { r with left := r.left.filter fun n => (d.atlas.block n).holds }
  let ended := runs.filter fun r => r.left.isEmpty
  let age := d.atlas.oldestHours
  (d.onAtlas fun a => { a with scrubs := runs.filter fun r => !r.left.isEmpty }).each (ended.filterMap ScrubRun.slot) fun e s =>
    e.reply s (.ok [w36 age])

/-- Programs, copies and reclaims that can start do so: none while PWR_FAIL_N is low or the journal is not open. The stream's
words come from the capture store, so programs of them wait for CAPTURE (R377; DEDUCED, log 195). -/
def Dev.runFlash (d : Dev) : Dev :=
  let a := d.atlas
  let up := d.flashUp
  let places := 2 * (a.targets.length * (a.targets.head?.map Target.planes).getD 1)
  if a.powerHeld || !(a.st == .open || a.st == .readOnly || a.st == .full) then d.endScrubs
  else (d.onAtlas fun x =>
    let y := (List.range x.moves.length).foldl (fun z n => z.startMove up n) x
    (if d.partUp partCapture then y.startStream up places else y).reclaim).endScrubs

/-! ## Faults and wear (R283, R286, R290) -/

/-- Source 334 + c and MEDIA_WARN for a channel (R290). -/
def Dev.mediaWarn (d : Dev) (c : Nat) : Dev := (d.setFlag flagMediaWarn).pulse (334 + c)

/-- With no spare left the journal is read-only. -/
def Atlas.readOnlyIf (a : Atlas) : Atlas :=
  { a with st := if (a.st = .open ∨ a.st = .full) ∧ a.spareBlocks = 0 then .readOnly else a.st }

/-- A block retires: its data is copied out first. Spare below 2 % of the usable capacity warns. -/
def Dev.retireBlock (d : Dev) (n : Nat) : Dev :=
  let d1 := d.onAtlas fun a =>
    let b := a.updBlock n fun b => if b.pages.isEmpty then { b with grown := true, erasing := false } else { b with retiring := true }
    ((if (a.block n).pages.isEmpty then b else b.addMove n .retire)).readOnlyIf
  let low := decide (d1.atlas.spareBlocks * d1.atlas.blockKiB * 50 < d1.atlas.usableMiB * 1024)
  (d1.when low fun e => e.setFlag flagMediaWarn).pulse (334 + d.atlas.channelOf n)

/-- Mean erase count of the blocks over the rated cycles, in permille (R286). -/
def Atlas.lifeUsed (a : Atlas) : Nat :=
  let rated := (a.targets.head?.map Target.ratedCycles).getD 0
  if a.blocks.length * rated = 0 then 0 else sumN (a.blocks.map Block.erases) * 1000 / (a.blocks.length * rated)

/-- Erase counts of good blocks more than 256 apart make the data of the coldest one move into a worn one (R284). The metadata
area, which holds no data to move and is not erased after a format, is left out (DEDUCED, log 88). -/
def Atlas.levelWear (a : Atlas) : Atlas :=
  let good := (a.blocks.filter fun b => !b.bad && !b.records).map Block.erases
  let cold := leastBlock Block.erases (a.blocks.zipIdx.filter fun x =>
    x.1.holds && !x.1.bad && decide (a.blockPages ≤ x.1.used) && a.moves.all fun m => m.src != x.2)
  match cold with
  | some n =>
    if 256 < maxN good - good.foldl min (good.headD 0) ∧ (a.moves.all fun m => m.why != .level) then a.addMove n .level else a
  | none => a

/-- A block has been erased. -/
def Dev.erased (d : Dev) (n : Nat) : Dev :=
  let d1 := d.onAtlas fun a =>
    { a.updBlock n fun b => { b with erases := b.erases + 1, used := 0, pages := [], erasing := false } with
      badCopies := a.badCopies.filter fun x => x.1 != n }
  (d1.when (900 ≤ d1.atlas.lifeUsed && d.atlas.lifeUsed < 900) fun e => e.mediaWarn (d.atlas.channelOf n)).onAtlas Atlas.levelWear

/-- A move whose last copy is programmed ends: the old block is erased, or it is now a grown bad block. -/
def Atlas.endMove (a : Atlas) (m : BlockMove) : Atlas :=
  let b := { a with moves := a.moves.filter fun x => x.src != m.src, refreshed := a.refreshed + b2n (m.why == MoveWhy.refresh) }
  b.updBlock m.src fun x =>
    if m.why = MoveWhy.retire then { x with pages := [], retiring := false, grown := true } else { x with pages := [], erasing := true }

/-- `programmed` moves on over the pages that are programmed. -/
def Atlas.join (a : Atlas) : Nat → Atlas
  | 0 => a
  | n + 1 =>
    let p := a.programmed / a.pageWords
    if p ∈ a.ahead then ({ a with programmed := a.programmed + a.pageWords, ahead := a.ahead.filter (· != p) }).join n else a

/-- A page program has completed and checks; a checkpoint follows each GiB. -/
def Atlas.pageDone (a : Atlas) (x : PageProgram) : Atlas :=
  let b := { a.updBlock x.block fun b => { b with writtenAt := a.hour, readAt := a.hour } with
             inflight := a.inflight.erase x, pagesDone := a.pagesDone + 1 }
  if x.copy then
    match b.moves.find? fun m => m.dst == some x.block with
    | some m => if m.left = [] then b.endMove m else b
    | none => b
  else
    let c := ({ b with ahead := x.page :: b.ahead }).join (b.ahead.length + 1)
    if c.checkpoint + 1024 * 256 * 910 ≤ c.programmed then c.mark else c

/-- A program that did not complete in its block: the page is programmed again elsewhere. -/
def Atlas.pageAgain (a : Atlas) (x : PageProgram) : Atlas :=
  let b := { a.updBlock x.block fun b => { b with pages := b.pages.filter (· != x.page) } with inflight := a.inflight.erase x }
  if x.copy then
    { b with moves := b.moves.map fun m => if m.dst == some x.block then { m with left := x.page :: m.left } else m }
  else { b with rewrites := x.page :: b.rewrites }

/-- A move whose new block has failed starts again into another one. -/
def Atlas.restartMove (a : Atlas) (block : Nat) : Atlas :=
  if a.moves.any fun m => m.dst == some block then
    { a.updBlock block fun b => { b with pages := [] } with
      moves := a.moves.map fun m =>
        if m.dst == some block then { m with dst := none, left := (a.block m.src).pages } else m }
  else a

/-- The program that a channel has had in progress longest. -/
def Atlas.running (a : Atlas) (ch : Nat) : Option PageProgram :=
  a.inflight.find? fun x => a.channelOf x.block == ch && (x.copy || decide ((x.page + 1) * a.pageWords ≤ a.laid))

/-- A channel rejoins once it is out of reset. Its targets are initialised again, if ATLAS_FORMAT or ATLAS_OPEN has initialised
them since the main part's reset (R267, R289, R399). -/
def Atlas.channelUp (a : Atlas) (ch : Nat) : Atlas :=
  if a.initialised ∧ ch ∈ populated a.targets then { a with ddr := ch :: a.ddr.filter (· != ch) } else a

/-- A reset of a channel aborts its programs; its targets start again in SDR (R267, R289). -/
def Atlas.channelDown (a : Atlas) (ch : Nat) : Atlas :=
  let mine := a.inflight.filter fun x => a.channelOf x.block == ch
  { mine.foldr (fun x b => b.pageAgain x) a with ddr := a.ddr.filter (· != ch) }

/-- A codeword that no attempt decodes: its sheets are damaged, and its block is to retire once the rest of it has moved
(R283). Only the block where it failed retires: one that was lost before has no good copy in the block that holds its page
since. -/
def Dev.loseCodeword (d : Dev) (cw block : Nat) : Dev :=
  if cw ∈ d.atlas.lost then d
  else
    let d1 := d.onAtlas fun a =>
      { a with lost := cw :: a.lost
               sheets := a.sheets.map fun s =>
                 if decide (s.place < (cw + 1) * 910 ∧ cw * 910 < s.stop) then { s with damaged := true } else s }
    if (d1.atlas.block block).bad then d1 else d1.retireBlock block

/-- The counter of a read quality; a codeword without an error has none. -/
def qualityIndex (q : ReadQuality) : Option Nat :=
  match q with
  | .hard 0 => none
  | .hard _ => some 0
  | .retried => some 1
  | .soft => some 2
  | .uncorrectable => some 3

/-- A decoded codeword is counted for its channel; an uncorrectable one warns (R290). -/
def Dev.countRead (d : Dev) (ch : Nat) (q : ReadQuality) : Dev :=
  (d.onAtlas fun a =>
    { a with codewords := match qualityIndex q with
        | some i => a.codewords.modify ch fun l => l.modify i (· + 1)
        | none => a.codewords }).when (q == .uncorrectable) fun e => e.mediaWarn ch

/-- A codeword so read makes its block due for a refresh (R285). -/
def ReadQuality.weak (q : ReadQuality) : Bool :=
  match q with
  | .hard n => decide (96 < n)
  | .retried => true
  | .soft => true
  | .uncorrectable => false

end Sys2Proof.Machine
end

