-- ==== Sys2Proof/Machine/Sheets.lean ====
section
/-! DEFINITION. Sheets of the Atlas: their form, the stream layout, staging, drops and GAP sheets, truncation, and
the collection of READINGS sheets (11 R271 to R279). -/

namespace Sys2Proof.Machine

def shReadings : Nat := 1
def shTraverse : Nat := 2
def shContour : Nat := 3
def shTrigger : Nat := 4
def shGap : Nat := 5

/-- Header words 0 to 6. -/
def Sheet.head (s : Sheet) : List Word :=
  [word [(35, 28, s.type), (27, 20, s.source), (19, 19, b2n s.truncated)]] ++ words72 s.seq ++ words72 s.body.length ++
  [w36 s.frame, word [(35, 20, s.gen.toNat), (19, 8, s.epoch)]]

/-- The words of a sheet. -/
def Sheet.words (s : Sheet) : List Word :=
  s.head ++ [w36 (crcWords s.head)] ++ s.body ++ [word [(35, 32, 0xD), (31, 0, crcWords s.body)]]

/-- The word at a position of the stream: of a sheet, or padding (R272). -/
def Atlas.wordAt (a : Atlas) (pos : Nat) : Word :=
  match a.sheets.find? fun s => decide (s.place ≤ pos ∧ pos < s.stop) with
  | some s => s.words.getD (pos - s.place) 0
  | none => w36 (2 ^ 36 - 1)

/-- The stream as a reader parses it from a position where a header is due: a word of all ones marks the rest of its page as
padding. -/
def Atlas.headerAt (a : Atlas) (pos : Nat) : Nat := if a.wordAt pos = w36 (2 ^ 36 - 1) then a.pageEnd (pos + 1) else pos

/-- The nine bytes of two words, most significant bit first. -/
def pairBytes (x y : Word) : List Nat :=
  (List.range 9).map fun i => (x.toNat * 2 ^ 36 + y.toNat) / 2 ^ (8 * (8 - i)) % 256

/-- The payload of codeword n: the 32,760 bits of its 910 words, and the layout byte (R271). -/
def Atlas.payload (a : Atlas) (n : Nat) : List Nat :=
  ((List.range 455).flatMap fun i => pairBytes (a.wordAt (910 * n + 2 * i)) (a.wordAt (910 * n + 2 * i + 1))) ++ [1]

/-- FIRST_HDR: the word of the first sheet header that starts in codeword n. -/
def Atlas.firstHeader (a : Atlas) (n : Nat) : Nat :=
  match a.sheets.find? fun s => decide (910 * n ≤ s.place ∧ s.place < 910 * (n + 1)) with
  | some s => s.place - 910 * n
  | none => 1023

/-- Metadata bits [127:32] of codeword n. -/
def Atlas.codewordHead (a : Atlas) (n : Nat) : BitVec 96 :=
  BitVec.ofNat 96 (n % 2 ^ 48 * 2 ^ 48 + a.formatId.toNat * 2 ^ 16 + a.firstHeader n * 2 ^ 6)

/-- The metadata of codeword n with its CRC over the payload and bits [127:32]. -/
def Atlas.codewordMeta (a : Atlas) (n : Nat) : BitVec 128 :=
  let h := a.codewordHead n
  h ++ BitVec.ofNat 32 (crc32 (a.payload n ++ (List.range 12).map fun i => h.toNat / 2 ^ (8 * (11 - i)) % 256))

/-- Its body waits in the staging area; TRAVERSE and CONTOUR bodies are read in place (R277). -/
def Sheet.isStaged (s : Sheet) : Bool := s.type != shTraverse && s.type != shContour

/-- Not wholly programmed. -/
def Atlas.waits (a : Atlas) (s : Sheet) : Bool := decide (a.programmed < s.stop)

/-- Words in the staging area. -/
def Atlas.staged (a : Atlas) : Nat := sumN ((a.sheets.filter fun s => a.waits s && s.isStaged).map Sheet.size)

/-- TRAVERSE and CONTOUR sheets that wait. -/
def Atlas.unstaged (a : Atlas) : Nat := (a.sheets.filter fun s => a.waits s && !s.isStaged).length

/-- The staging area in words. -/
def stagingWords : Nat := 8388608

/-- The words of the stream that the usable capacity holds (R269, R271): 256 codewords a MiB. -/
def Atlas.capacity (a : Atlas) : Nat := a.usableMiB * 256 * 910

/-- Room is left for n more words: not under FULL = STOP once only the reserve is left (R281). -/
def Atlas.hasRoom (a : Atlas) (n : Nat) : Bool := !a.policy.stopWhenFull || a.laid + n ≤ a.kept + a.capacity

/-- A sheet of this type and size can join the journal (R278, R283). -/
def Atlas.fits (a : Atlas) (type n : Nat) : Bool :=
  a.st == .open && a.hasRoom n &&
    (if type = shTraverse ∨ type = shContour then decide (a.unstaged < 64) else decide (a.staged + n ≤ stagingWords))

/-- The journal takes sheets: an open has completed (R288). -/
def Atlas.isOpen (a : Atlas) : Bool := a.st == .open || a.st == .readOnly || a.st == .full

/-- A sheet to be made: type, source, frame, body, the body lengths at which it may be cut, and the first frame that
it covers. -/
structure NewSheet where
  type : Nat
  source : Nat
  frame : Nat
  first : Nat
  body : List Word
  cuts : List Nat
  deriving DecidableEq, Repr

def NewSheet.size (n : NewSheet) : Nat := 9 + n.body.length

/-- A sheet takes its SEQ and its place in the stream (R277). -/
def Atlas.append (a : Atlas) (n : NewSheet) (gen : BitVec 16) (epoch : Nat) : Atlas :=
  let s : Sheet :=
    { type := n.type, source := n.source, truncated := false, seq := a.seqNext, frame := n.frame, gen := gen,
      epoch := epoch, body := n.body, cuts := n.cuts, place := a.laid, pad := false, damaged := false }
  { a with sheets := a.sheets ++ [s], seqNext := a.seqNext + 1, laid := a.laid + s.size, appended := a.appended + s.size }

/-- A sheet dropped (R278): it joins the next GAP sheet. -/
def Atlas.drop (a : Atlas) (n : NewSheet) : Atlas :=
  let g := match a.gap with
    | none => (1, n.first, n.frame, 2 ^ n.type)
    | some (c, lo, hi, m) => (c + 1, min lo n.first, max hi n.frame, m ||| 2 ^ n.type)
  { a with gap := some g, dropped := a.dropped + 1,
           dropSinceFence := a.dropSinceFence || (a.st == .full) }

/-- The GAP sheet that covers what was dropped (R273). -/
def gapSheet (g : Nat × Nat × Nat × Nat) : NewSheet :=
  { type := shGap, source := 0, frame := g.2.2.1, first := g.2.1,
    body := [w36 g.1, w36 g.2.1, w36 g.2.2.1, w36 g.2.2.2], cuts := [] }

/-- A pending GAP sheet is written as soon as it fits. -/
def Atlas.writeGap (a : Atlas) (gen : BitVec 16) (epoch : Nat) : Atlas :=
  match a.gap with
  | none => a
  | some g =>
    if a.fits shGap (gapSheet g).size then { a.append (gapSheet g) gen epoch with gap := none, gaps := a.gaps + 1 } else a

/-- The first populated channel. -/
def Atlas.firstChannel (a : Atlas) : Nat := (a.targets.head?.map Target.channel).getD 0

/-- Appends stop when only the reserve is left (R281). -/
def Dev.fillAtlas (d : Dev) (n : Nat) : Dev :=
  if d.atlas.st = .open ∧ !d.atlas.hasRoom n then
    (d.onAtlas fun a => { a with st := .full, filled := true }).mediaWarn d.atlas.firstChannel
  else d

/-- A sheet becomes complete: it is staged behind the pending GAP sheet, or dropped. Nothing is made for a journal
that is not open. With CAPTURE in reset or down nothing can be staged, nor a map's bins read (R377): such a sheet is dropped as one
that does not fit (DEDUCED, log 195). -/
def Dev.makeSheet (d : Dev) (n : NewSheet) : Dev :=
  if !d.atlas.isOpen then d
  else if !d.partUp partCapture && n.type != shTraverse then d.onAtlas fun a => a.drop n
  else
    let d1 := d.fillAtlas n.size
    (d1.onAtlas fun a =>
      let b := if d.partUp partCapture then a.writeGap d.gs.gen d.gs.epochs else a
      if b.gap.isNone && b.fits n.type n.size then b.append n d.gs.gen d.gs.epochs else b.drop n).runFlash

/-! ## Truncation (R276) -/

/-- The body words that a copy of the sheet may end with: none but those that lead it, and the end of each whole part. -/
def Sheet.ends (s : Sheet) : List Nat := (if s.type = shTraverse then 4 else 0) :: s.cuts

/-- The body words that the copy holds: whole channel frames or records are read, and the stream is handed to programs up to
`begun` (DEDUCED, log 176). -/
def Sheet.copied (s : Sheet) (begun : Nat) : Nat :=
  let given := begun - (s.place + 8)
  ((s.ends.filter (given ≤ ·)).head?).getD s.body.length

/-- The sheet closed after n body words. -/
def Sheet.cutAt (s : Sheet) (n : Nat) : Sheet :=
  if s.body.length ≤ n then s else { s with body := s.body.take n, truncated := true }

/-- The sheet closed where its copy stands. -/
def Sheet.cut (s : Sheet) (begun : Nat) : Sheet := s.cutAt (s.copied begun)

/-- The sheet closed before an uncorrectable body word (R388). -/
def Sheet.cutBefore (s : Sheet) (begun w : Nat) : Sheet :=
  s.cutAt (max (s.copied begun) (maxN (s.ends.filter (· ≤ w))))

/-- The body words that are not copied yet read as zeros. -/
def Sheet.blanked (s : Sheet) (begun : Nat) : Sheet :=
  let n := s.copied begun
  { s with body := s.body.take n ++ List.replicate (s.body.length - n) 0 }

/-- Where the next sheet starts after one. -/
def Atlas.after (a : Atlas) (s : Sheet) : Nat := if s.pad then a.pageEnd s.stop else s.stop

/-- Sheets laid out again one behind the other from a position. -/
def Atlas.layout (a : Atlas) : Nat → List Sheet → List Sheet
  | _, [] => []
  | x, s :: r =>
    let t := { s with place := x }
    t :: a.layout (a.after t) r

/-- The position after the last of the sheets. -/
def Atlas.tail (a : Atlas) (l : List Sheet) (x : Nat) : Nat := (l.getLast?.map a.after).getD x

/-- A waiting sheet is closed early, and what waits behind it moves up. -/
def Atlas.cutSheet (a : Atlas) (t cut : Sheet) : Atlas :=
  let done := a.sheets.takeWhile fun s => s.seq < t.seq
  let rest := a.layout t.place (cut :: (a.sheets.filter fun s => t.seq < s.seq))
  { a with sheets := done ++ rest, laid := a.tail rest a.laid,
           appended := a.appended - (t.body.length - cut.body.length),
           truncatedSheets := a.truncatedSheets + b2n (cut.truncated && !t.truncated) }

/-- Each waiting sheet of a traverse's window is closed, the oldest first. -/
def Atlas.truncate (a : Atlas) (num : Nat) : Atlas :=
  (a.sheets.filter fun s => s.type == shTraverse && s.source == num && a.waits s).foldl (fun x s =>
    match x.sheets.find? fun t => t.seq == s.seq with
    | some t => x.cutSheet t (t.cut x.begun)
    | none => x) a

/-- The first waiting sheet of a kind is closed before an uncorrectable body word (R388). -/
def Atlas.cutBad (a : Atlas) (w : Nat) (kind : Sheet → Bool) : Atlas :=
  match a.sheets.find? fun s => kind s && a.waits s with
  | none => a
  | some t => a.cutSheet t (t.cutBefore a.begun w)

/-! ## READINGS sheets (R275) -/

/-- The reading is one that the policy selects. -/
def AtlasPolicy.selects (p : AtlasPolicy) (x : Published) : Bool :=
  p.itemLo ≤ x.num && x.num ≤ p.itemHi && (p.rdMode == 2 || !x.running)

/-- The body lengths at which groups of these lengths end. -/
def groupEnds : Nat → List Nat → List Nat
  | _, [] => []
  | at_, n :: r => (at_ + n) :: groupEnds (at_ + n) r

/-- The sheet being collected closes. -/
def Dev.closeReadings (d : Dev) : Dev :=
  match d.atlas.collecting with
  | [] => d
  | l =>
    let n : NewSheet :=
      { type := shReadings, source := 0, frame := (l.getLast?.map fun x => x.1).getD 0,
        first := (l.head?.map fun x => x.1).getD 0, body := l.flatMap fun x => x.2,
        cuts := groupEnds 0 (l.map fun x => x.2.length) }
    (d.onAtlas fun a => { a with collecting := [] }).makeSheet n

/-- A published batch joins the sheet being collected. -/
def Dev.collectReadings (d : Dev) (f : Nat) (ps : List Published) : Dev :=
  let p := d.atlas.policy
  if !d.atlas.isOpen || p.rdMode == 0 then d
  else
    let body := (ps.filter p.selects).flatMap fun x => x.words
    let d1 := d.onAtlas fun a => { a with collecting := a.collecting ++ [(f, w36 f :: w36 body.length :: body)] }
    if p.rdFrames ≤ d1.atlas.collecting.length then d1.closeReadings else d1

/-- A policy at its tick (R274). -/
def Dev.policyTick (d : Dev) : Dev :=
  match d.atlas.pendingPolicy with
  | some (t, p) =>
    if t ≤ d.tb.frame then d.closeReadings.onAtlas fun a => { a with policy := p, pendingPolicy := none } else d
  | none => d

end Sys2Proof.Machine
end

