-- ==== Sys2Proof/Machine/Traverses.lean ====
section
/-! DEFINITION. The pool of the capture store and the traverses: definition, channel frames, counters, freezing,
resizing and deletion (09 R223 to R240, 13 R328). -/

namespace Sys2Proof.Machine

/-! ## The pool (R223) -/

def poolPages : Nat := 1044480
def pageSize : Nat := 4096

/-- The pages of a traverse that are not free: those of a wider ring from the acceptance of its RESIZE. -/
def Traverse.allPages (t : Traverse) : Nat :=
  t.waits.foldl (fun n w => match w.2 with
    | .resize p _ => max n p
    | _ => n) t.pages

/-- Pages of a map: 256 of bins and the status page (R241). -/
def mapPages : Nat := 257

/-- A contour map's pages that a deferred definition holds. -/
def effectPages : Effect → Option (Nat × Nat)
  | .contour _ _ base => some (base / pageSize, mapPages)
  | _ => none

/-- The runs of pages in use, but for those of traverse `but`. -/
def Dev.runs (d : Dev) (but : Option Nat) : List (Nat × Nat) :=
  ((d.cap.traverses.filter fun t => some t.num != but).map fun t => (t.base / pageSize, t.allPages)) ++
  (d.cap.maps.map fun m => (m.base / pageSize, mapPages)) ++
  (d.fw.deferred.filterMap fun e => effectPages e.effect) ++
  (d.cap.chart.buffers.map fun b => (b.base / pageSize, b.pages)) ++ d.survey.histPages ++ d.cap.rbuf.toList

/-- n pages from a page on are free. -/
def freeAt (runs : List (Nat × Nat)) (n page : Nat) : Bool :=
  decide (page + n ≤ poolPages) && runs.all fun u => decide (page + n ≤ u.1 ∨ u.1 + u.2 ≤ page)

/-- The first free run of n pages, from the lowest address. -/
def firstFit (runs : List (Nat × Nat)) (n : Nat) : Option Nat :=
  leastFault ((0 :: runs.map fun u => u.1 + u.2).filter (freeAt runs n))

/-! ## Definition (R225 to R227) -/

def tvCompact : Nat := 1
def tvFull : Nat := 2
def tvTie : Nat := 3

def Dev.traverse (d : Dev) (n : Nat) : Option Traverse := d.cap.traverses.find? fun t => t.num == n

def Dev.updTraverse (d : Dev) (n : Nat) (f : Traverse → Traverse) : Dev :=
  d.onCap fun c => { c with traverses := c.traverses.map fun t => if t.num == n then f t else t }

/-- Charge of the defined traverses in M words/s. -/
def Dev.captureLoad (d : Dev) : Nat := sumN (d.cap.traverses.map fun t => t.rate + 2)

/-- The traverse that DEFINE_TRAVERSE defines at a tick, at a page. -/
def Cmd.traverse (c : Cmd) (page tick : Nat) : Traverse :=
  { num := c.f 1 35 28, ch := c.f 1 27 21, kind := c.f 1 20 17, base := page * pageSize, pages := c.f 2 20 0,
    halt := c.b 1 16, rate := c.f 3 13 0, wc := 0, rc := 0, c0 := 0, freeze := .free, arm := none, trigFrame := 0,
    firstFrame := 0, lastFrame := 0, committed := 0, skipped := 0, cut := 0, flushed := 0, from_ := tick, next := tick, rcAt := [],
    held := [], waits := [], resizes := [] }

/-- A traverse joins the others in ascending number. -/
def insertTraverse (l : List Traverse) (t : Traverse) : List Traverse :=
  (l.filter fun x => x.num ≤ t.num) ++ [t] ++ l.filter fun x => t.num < x.num

def mbDefineTraverse : MbCommand :=
  onDev (form 0x501 [3]) (fun _ => [[(35, 16)], [(20, 0)], [(13, 0)]])
    (fun c => faultsOf [(1, 95 < c.f 1 27 21 || c.f 1 20 17 == 0 || 3 < c.f 1 20 17),
      (2, c.f 2 20 0 == 0 || 2 ^ 20 < c.f 2 20 0), (3, c.f 3 13 0 == 0 || 10000 < c.f 3 13 0)]) fun d c =>
    d.check (firstFail [((d.traverse (c.f 1 35 28)).isSome, failAt eResource 1),
        (128000 < d.captureLoad + c.f 3 13 0 + 2, failPlain eBudget)] <|> d.partsFault [partCapture]) fun e =>
      match firstFit (e.runs none) (c.f 2 20 0) with
      | none => (e, .fail (failPlain eResource))
      | some page =>
        let t := c.traverse page e.nextTick
        (e.onCap fun x => { x with traverses := insertTraverse x.traverses t }, .deferred e.nextTick [w36 t.base])

def execDefineTraverse (slot : SlotId) (s : State) : Host.Outcome State Fault Refusal := done (s.accept slot mbDefineTraverse)

/-! ## Channel frames (R226, R229 to R231) -/

def Traverse.length (t : Traverse) : Nat := t.pages * pageSize

/-- Words of a record. -/
def Traverse.width (t : Traverse) : Nat := if t.kind = tvFull then 2 else 1

/-- Q_f. -/
def Traverse.quota (t : Traverse) (k : Nat) : Nat := t.rate * 2 ^ k / 2500

/-- A TIE sample as its word (R183). -/
def tieWord (s : Sample) : Word :=
  match s.value with
  | some v => w36 (codeOf 36 v)
  | none => 0x800000000#36

/-- The item that anchors the NCO of a channel in a frame: its HISTOGRAM of TIE, else the lowest user (R182). -/
def anchorOf (items : List ItemRun) (ch f : Nat) : Option ItemRun :=
  let mine := items.filter fun r => r.covers f && r.item.usesNco && r.item.ch.getD 0 0 == ch
  match mine.find? fun r => r.item.kind == kHistogram with
  | some r => some r
  | none => mine.find? fun r => mine.all fun x => decide (r.num ≤ x.num)

/-- The TIE samples that a channel completes in a gated frame, ahead of the frame's survey work; the stream runs on while no gate
of the item is open. -/
def Dev.tieSamples (d : Dev) (ch : Nat) (info : FrameInfo) : List Sample :=
  match anchorOf d.survey.items ch info.frame with
  | none => []
  | some r =>
    let a := (d.stepItem info r).begin info (!d.gatedAt (info.frame - 1) || r.from_ == info.frame)
    match d.streamFrom info a with
    | none => []
    | some s => (d.rawStream info a s).2

/-- The records of a frame, each as its words (R229). -/
def Dev.tvRecords (d : Dev) (t : Traverse) (info : FrameInfo) : List (List Word) :=
  if t.kind = tvTie then (d.tieSamples t.ch info).map fun x => [tieWord x]
  else
    ((d.chan t.ch).record info.frame).stamps.map fun s =>
      if t.kind = tvFull then s.words else [s.compact (s.time / 4096 % 2 ^ info.k)]

/-- TV_RC at the tick of a frame. -/
def Traverse.rcOf (t : Traverse) (f : Nat) : Nat :=
  match t.rcAt.find? fun x => x.1 == f with
  | some x => x.2
  | none => t.rc

/-- The room for frame f under HALT (R235). -/
def Traverse.room (t : Traverse) (f : Nat) : Nat := t.length - (t.wc - t.rcOf f)

/-- The channel frame of a frame from all its records, and whether records were cut. -/
def Dev.channelFrame (d : Dev) (t : Traverse) (info : FrameInfo) : List Word × Bool :=
  let all := d.tvRecords t info
  let q := t.quota info.k / t.width
  let room := if t.halt then (t.room info.frame - 3) / t.width else all.length
  let kept := all.take (min q room)
  let cutQ := decide (q < all.length ∧ q ≤ room)
  let cutR := decide (room < all.length ∧ room ≤ q)
  let r := (d.chan t.ch).record info.frame
  ([word [(35, 32, t.kind), (31, 25, t.ch)], w36 info.frame] ++ kept.flatten ++
    [word [(35, 32, 0xE), (31, 31, b2n cutQ), (30, 30, b2n cutR), (29, 29, b2n (r.lostFifo + r.lostCheck != 0)),
      (28, 0, kept.length)]], cutQ || cutR)

/-! ## Freezing (R221, R236, R237) -/

/-- Lowest counter value of the intact span (R234). -/
def Traverse.intact (t : Traverse) : Nat := max t.c0 (t.wc - t.length)

/-- Frames lo to hi that the ring holds whole, oldest first: frame, counter value, words. -/
def Traverse.window (t : Traverse) (lo hi : Nat) : List (Nat × Nat × Nat) :=
  (t.held.filter fun x => decide (lo ≤ x.1 ∧ x.1 ≤ hi ∧ t.intact ≤ x.2.1)).reverse

/-- Words of the ring from a counter value. -/
def Traverse.read (t : Traverse) (m : List (Nat × Word)) (c n : Nat) : List Word :=
  (List.range n).map fun i => Mem.read m (t.base + (c - t.c0 + i) % t.length)

/-- Ends of the channel frames of a window, counted from the 4 leading words of the sheet. -/
def windowCuts : Nat → List (Nat × Nat × Nat) → List Nat
  | _, [] => []
  | n, x :: r => (n + x.2.2) :: windowCuts (n + x.2.2) r

/-- The TRAVERSE sheet of a frozen window (R273). -/
def Dev.traverseSheet (d : Dev) (t : Traverse) (pre post : Nat) : NewSheet :=
  let w := t.window (t.trigFrame - pre) t.lastFrame
  { type := shTraverse, source := t.num, frame := t.trigFrame, first := t.firstFrame
    body := [word [(35, 32, t.kind), (31, 25, t.ch)], w36 pre, w36 post, w36 t.firstFrame] ++
      w.flatMap fun x => t.read d.cap.mem x.2.1 x.2.2
    cuts := windowCuts 4 w }

/-- A pending traverse becomes FROZEN; `last` is the last frame written for it. -/
def Dev.freezeTraverse (d : Dev) (n last : Nat) : Dev :=
  match d.traverse n with
  | none => d
  | some t =>
    match t.freeze with
    | .pending trig pre post _ save =>
      let hi := min (trig + post) last
      let first := ((t.window (trig - pre) hi).head?.map fun x => x.1).getD 0
      let u := { t with freeze := .frozen, trigFrame := trig, firstFrame := first, lastFrame := hi }
      (d.updTraverse n fun _ => u).when save fun e => e.makeSheet (e.traverseSheet u pre post)
    | _ => d

/-- The traverse takes channel frames at the frame in progress: it is gated, or an earlier gated frame is still to be
committed (R236). -/
def Dev.tvWriting (d : Dev) (t : Traverse) : Bool :=
  t.from_ ≤ d.tb.frame && d.gs.op != .fault && d.gs.op != .safe &&
    d.survey.frames.any fun i => i.gated && decide (t.next ≤ i.frame)

/-- The last frame of a window for trigger frame m: a HOLD or STOP since then has ended it (R237). -/
def Dev.windowEnd (d : Dev) (m post : Nat) : Nat :=
  match (range2 (m + 1) d.tb.frame).find? fun f => !d.gatedAt f with
  | some f => min (m + max post 1) (f - 1)
  | none => m + max post 1

/-- HOLD or STOP applies at the tick just past: the frame before it ends a pending window. -/
def Traverse.endRun (f : Nat) (t : Traverse) : Traverse :=
  match t.freeze with
  | .pending m pre post last save => { t with freeze := .pending m pre post (min last (f - 1)) save }
  | _ => t

/-! ## Commits (R234, R235) -/

/-- The oldest gated frame that is over and that the traverse has neither written nor skipped. -/
def Dev.commitDue (d : Dev) (t : Traverse) : Option FrameInfo :=
  if t.freeze = .frozen ∨ d.gs.op = .fault ∨ d.gs.op = .safe then none
  else (d.survey.frames.reverse.find? fun i => i.gated && decide (t.next ≤ i.frame) && decide (i.frame < d.tb.frame))

/-- The channel frame of a frame is written, or skipped. -/
def Dev.writeFrame (d : Dev) (t : Traverse) (info : FrameInfo) : Dev :=
  let f := info.frame
  let u := { t with next := f + 1, rcAt := t.rcAt.filter fun x => f < x.1 }
  if info.noStamps || !d.partUp partCapture || (t.halt && decide (t.room f < 3)) then
    d.updTraverse t.num fun _ => { u with skipped := clampU 36 (u.skipped + 1) }
  else
    let q := d.channelFrame t info
    let d1 := d.onCap fun c =>
      c.put (Mem.ringWrites c.mem t.base t.length t.c0 t.wc q.1) (ringSpan t.base t.length t.c0 t.wc q.1.length)
    let wc := t.wc + q.1.length
    let v := { u with wc := wc, committed := f, held := (f, t.wc, q.1.length) :: t.held }
    d1.updTraverse t.num fun _ =>
      { v with cut := clampU 36 (v.cut + b2n q.2), held := v.held.filter fun x => decide (v.intact ≤ x.2.1) }

/-- A pending traverse whose last frame is behind it is frozen. -/
def Dev.freezeDue (d : Dev) (n : Nat) : Dev :=
  match d.traverse n with
  | none => d
  | some t =>
    match t.freeze with
    | .pending _ _ _ last _ => if last < t.next then d.freezeTraverse n last else d
    | _ => d

/-- A route armed to the traverse, or a NOW, acts for trigger frame m at the tick just past (R237). Where no frame of the
window is still to be written, it freezes at once. -/
def Dev.fireTraverse (d : Dev) (t : Traverse) (m pre post : Nat) (save : Bool) : Dev :=
  if t.freeze = .free ∧ d.tvWriting t then
    (d.updTraverse t.num fun x => { x with freeze := .pending m pre post (d.windowEnd m post) save }).freezeDue t.num
  else d

/-- HOLD or STOP applies at the tick that opens frame f: pending windows end, and those that wait for no frame freeze. -/
def Dev.endWindows (d : Dev) (f : Nat) : Dev :=
  (d.onCap fun c => { c with traverses := c.traverses.map (Traverse.endRun f) }).each (d.cap.traverses.map Traverse.num)
    Dev.freezeDue

/-! ## Resizing (R238, R239) -/

/-- The check of RESIZE_TRAVERSE for a traverse, and its effect at the next tick. -/
def Dev.resizeNow (d : Dev) (t : Traverse) (pages : Nat) (flush : Bool) : Dev × Reply :=
  let u := t.wc - t.rc
  let pending := match t.freeze with | .pending .. => true | _ => false
  if pending then (d, .fail (failPlain eBusy))
  else if 0 < u ∧ !flush then (d, .fail (failPlain eState))
  else if t.pages < pages ∧ !freeAt (d.runs (some t.num)) pages (t.base / pageSize) then (d, .fail (failPlain eResource))
  else
    let d1 := d.updTraverse t.num fun x =>
      { x with rc := x.wc, flushed := clampU 72 (x.flushed + u), waits := x.waits ++ [(d.nextTick, .resize pages x.wc)] }
    (d1, .deferred d.nextTick (w36 u :: words64 t.wc))

/-- The channel frame of the frame before `frame` has committed, or will not. -/
def Dev.committedBefore (d : Dev) (t : Traverse) (frame : Nat) : Bool :=
  match d.commitDue t with
  | some i => decide (frame ≤ i.frame)
  | none => true

/-- RESIZE_TRAVERSE commands whose frame has committed are decided. -/
def Dev.resizeDue (d : Dev) (n : Nat) : Dev :=
  match d.traverse n with
  | none => d
  | some t =>
    let due := t.resizes.filter fun r => d.committedBefore t r.frame
    let d1 := d.updTraverse n fun x => { x with resizes := x.resizes.filter fun r => !d.committedBefore t r.frame }
    due.foldl (fun e r =>
      match e.traverse n with
      | none => e
      | some x =>
        let q := e.resizeNow x r.pages r.flush
        q.1.reply r.slot q.2) d1

/-- TRAVERSE_COMMIT: the oldest channel frame that is due is committed, once no edge of its frame is on its way to a
stamp (R14). -/
def Dev.commitTraverse (d : Dev) (n : Nat) : Dev :=
  match d.traverse n with
  | none => d
  | some t =>
    match d.commitDue t with
    | none => d
    | some info =>
      if info.noStamps || d.drained t.ch info.frame then ((d.writeFrame t info).freezeDue n).resizeDue n else d

def execTraverseCommit (traverse : Nat) (s : State) : Host.Outcome State Fault Refusal :=
  doneDev s (s.dev.commitTraverse traverse)

/-- Every channel frame of frames before the frame in progress is committed, frame by frame in ascending traverse number:
2,048 coarse cycles have long passed. -/
def Dev.commitOverdue (d : Dev) : Dev :=
  d.each (List.range d.survey.frames.length) fun e _ => e.each (d.cap.traverses.map Traverse.num) Dev.commitTraverse

def mbResizeTraverse : MbCommand :=
  onDev { opcode := 0x502, counts := [1], options := [20], chunk := false } (fun _ => [[(35, 28), (20, 0)]])
    (fun c => faultsOf [(1, c.f 1 20 0 == 0 || 2 ^ 20 < c.f 1 20 0)]) fun d c =>
    match d.traverse (c.f 1 35 28) with
    | none => (d, .fail (failAt eParam 1))
    | some t =>
      d.check (d.partsFault [partCapture]) fun e =>
        if e.committedBefore t e.tb.frame then e.resizeNow t (c.f 1 20 0) (c.b 0 20)
        else
          (e.updTraverse t.num fun x =>
            { x with resizes := x.resizes ++ [⟨c.slot, e.tb.frame, c.f 1 20 0, c.b 0 20⟩] }, .running)

def execResizeTraverse (slot : SlotId) (s : State) : Host.Outcome State Fault Refusal := done (s.accept slot mbResizeTraverse)

/-! ## Actions at a tick -/

/-- An action waits for a tick. -/
def Traverse.wait (t : Traverse) (tick : Nat) (a : TvAction) : Traverse := { t with waits := t.waits ++ [(tick, a)] }

/-- The traverse takes up writing at the frame that the tick just past opens, its sheet cut short. -/
def Dev.releaseTraverse (d : Dev) (n : Nat) : Dev :=
  (d.updTraverse n fun t => { t with freeze := .free, next := max t.next d.tb.frame }).onAtlas fun a => a.truncate n

/-- What an accepted action does at its tick. -/
def Dev.tvAct (d : Dev) (n : Nat) (a : TvAction) : Dev :=
  match d.traverse n with
  | none => d
  | some t =>
    match a with
    | .arm r pre post => d.updTraverse n fun x => { x with arm := some (r, pre, post) }
    | .disarm => d.updTraverse n fun x => { x with arm := none }
    | .now m pre post => if d.gatedAt m then d.fireTraverse t m pre post false else d
    | .release =>
      (match t.freeze with
      | .free => d
      | .pending .. => d.updTraverse n fun x => { x with freeze := .free }
      | .frozen => d.releaseTraverse n)
    | .resize pages c0 =>
      let skips := t.freeze != .frozen && decide (t.next < d.tb.frame) && d.gatedAt (d.tb.frame - 1)
      ((d.updTraverse n fun x =>
        { x with pages := pages, c0 := c0, held := [], freeze := if x.freeze = .frozen then .free else x.freeze, next := max x.next d.tb.frame,
                 skipped := clampU 36 (x.skipped + b2n skips) }).freezeDue n).onAtlas fun y => y.truncate n
    | .delete =>
      (d.onCap fun c => { c with traverses := c.traverses.filter fun x => x.num != n }).onAtlas fun y => y.truncate n

/-- The actions of a traverse that are due. -/
def Traverse.due (t : Traverse) (f : Nat) : List TvAction := (t.waits.filter fun w => w.1 ≤ f).map fun w => w.2

/-- Every traverse at the tick just past: RC_f is kept for HALT, and accepted actions take place. -/
def Dev.traverseTick (d : Dev) : Dev :=
  let f := d.tb.frame
  let acts := d.cap.traverses.map fun t => (t.num, t.due f)
  let d1 := d.onCap fun c =>
    { c with traverses := c.traverses.map fun t =>
        { t with rcAt := (f, t.rc) :: t.rcAt.take 3, waits := t.waits.filter fun w => f < w.1 } }
  d1.each acts fun e x => x.2.foldl (fun y a => y.tvAct x.1 a) e

/-! ## Commands (R236, R240) -/

def Traverse.stateCode (t : Traverse) (writing : Bool) : Nat :=
  match t.freeze with
  | .pending .. => 2
  | .frozen => 3
  | .free => b2n writing

/-- The STATUS words (R328). -/
def Dev.tvStatus (d : Dev) (t : Traverse) : List Word :=
  [w36 (t.stateCode (d.tvWriting t)), w36 t.trigFrame, w36 t.firstFrame, w36 t.lastFrame, w36 t.skipped, w36 t.cut] ++
    words72 t.flushed

/-- The words of FREEZE_TRAVERSE at fault (R236, R328). -/
def Cmd.freezeFaults (c : Cmd) : List Nat :=
  let mode := c.f 1 27 24
  let two := mode == 0 || mode == 1
  faultsOf [(0, decide (mode ≤ 4) && c.count != (if two then 3 else 1)), (1, decide (4 < mode)),
    (2, two && decide (2 ^ 20 < c.f 2 20 0)), (3, two && decide (2 ^ 20 < c.f 3 20 0))]

/-- The trigger frame of a NOW or FORCE_TRIGGER accepted in the frame in progress (R222, R236). -/
def Dev.forcedFrame (d : Dev) : Nat := if d.inLeadIn then d.tb.frame + 1 else d.tb.frame

/-- FREEZE_TRAVERSE on an existing traverse. -/
def Dev.freezeCmd (d : Dev) (t : Traverse) (c : Cmd) : Dev × Reply :=
  let mode := c.f 1 27 24
  let at_ := fun (tick : Nat) (a : TvAction) => (d.updTraverse t.num fun x => x.wait tick a, Reply.deferred tick [])
  if mode = 0 then at_ d.nextTick (.arm (c.f 1 23 21) (c.f 2 20 0) (c.f 3 20 0))
  else if mode = 1 then at_ (d.forcedFrame + 2) (.now d.forcedFrame (c.f 2 20 0) (c.f 3 20 0))
  else if mode = 2 then at_ d.nextTick .release
  else if mode = 3 then at_ d.nextTick .disarm
  else (d, .ok (d.tvStatus t))

def mbFreezeTraverse : MbCommand :=
  onDev (form 0x504 [1, 3]) (fun _ => [[(35, 21)], [(20, 0)], [(20, 0)]]) Cmd.freezeFaults fun d c =>
    match d.traverse (c.f 1 35 28) with
    | none => (d, .fail (failAt eParam 1))
    | some t => d.freezeCmd t c

def execFreezeTraverse (slot : SlotId) (s : State) : Host.Outcome State Fault Refusal := done (s.accept slot mbFreezeTraverse)

def mbDeleteTraverse : MbCommand :=
  onDev (form 0x503 [1]) (fun _ => [[(35, 28)]]) (fun _ => []) fun d c =>
    match d.traverse (c.f 1 35 28) with
    | none => (d, .fail (failAt eParam 1))
    | some t => (d.updTraverse t.num fun x => x.wait d.nextTick .delete, .deferred d.nextTick [])

def execDeleteTraverse (slot : SlotId) (s : State) : Host.Outcome State Fault Refusal := done (s.accept slot mbDeleteTraverse)

/-! ## TV_RC (R232, R233) -/

/-- A host write to TV_RC: a lower value is ignored, one above WC is taken as WC. -/
def Traverse.writeRc (t : Traverse) (v : Lane) : Traverse := { t with rc := max t.rc (min v.toNat t.wc) }

def execTvRcWrite (traverse : Nat) (value : Lane) (s : State) : Host.Outcome State Fault Refusal :=
  doneDev s (if s.watch.perstN && s.dev.partUp partHost then s.dev.updTraverse traverse fun t => t.writeRc value else s.dev)

end Sys2Proof.Machine
end

