-- ==== Sys2Proof/Machine/Contours.lean ====
section
/-! DEFINITION. Contour maps: definition, events and binning, decay, the level sweep, clearing and the status page
(10 R241 to R250, 13 R329). -/

namespace Sys2Proof.Machine

def mapStrip : Nat := 1
def mapPersist : Nat := 2
def mapSpectrogram : Nat := 3
def mapEye : Nat := 4
def mapPhase : Nat := 5

/-- The largest count of a bin. -/
def binMax : Nat := 2 ^ 36 - 1

/-- Words of the bins. -/
def binWords : Nat := 1048576

def Dev.map_ (d : Dev) (n : Nat) : Option CMap := d.cap.maps.find? fun m => m.num == n

def Dev.updMap (d : Dev) (n : Nat) (f : CMap → CMap) : Dev :=
  d.onCap fun c => { c with maps := c.maps.map fun m => if m.num == n then f m else m }

/-! ## The status page (R250) -/

/-- Bins at their largest count. -/
def saturatedBins (mem : List (Nat × Word)) (base : Nat) : Nat :=
  (mem.filter fun c => decide (base ≤ c.1 ∧ c.1 < base + binWords) && c.2.toNat == binMax).length

/-- NEXT: the rolling column or row to be written next, once frame `f` is binned. -/
def CMap.nextLine (m : CMap) (f : Nat) : Nat :=
  if m.cfg.kind = mapSpectrogram then m.row % 1024
  else if m.cfg.kind = mapStrip ∨ m.cfg.kind = mapPhase then (f + 1 - m.cleared) / m.cfg.fpc % 1024
  else if m.cfg.kind = mapEye then (f + 1 - m.cleared) / m.cfg.dwell % m.cfg.rows
  else 0

/-- Words 0 to 10 of the status page. -/
def CMap.status (m : CMap) (mem : List (Nat × Word)) : List Word :=
  [word [(35, 32, m.cfg.kind), (31, 28, m.num)], w36 m.lastFrame] ++ words72 m.events ++ words72 m.skipped ++
  words72 m.outside ++ [w36 (saturatedBins mem m.base), w36 m.cleared, w36 (m.nextLine m.lastFrame)]

/-- The status page of a map written anew. -/
def Dev.writeStatus (d : Dev) (n : Nat) : Dev :=
  match d.map_ n with
  | some m => d.onCap fun c => c.put (Mem.writes c.mem (m.base + binWords) (m.status c.mem)) (span (m.base + binWords) 11)
  | none => d

/-! ## Definition, deletion, clearing (R242, R250) -/

/-- A map cleared at the tick of frame f. -/
def CMap.clear (m : CMap) (f : Nat) : CMap :=
  { m with events := 0, skipped := 0, outside := 0, cleared := f, row := 0, lastStep := f, lastFrame := f - 1, waiting := [] }

/-- The code of a level sweep's row s. -/
def MapCfg.code (c : MapCfg) (s : Nat) : Int := (c.code0 : Int) + s * c.codeStep

/-- The row of a level sweep in frame f. -/
def CMap.sweepRow (m : CMap) (f : Nat) : Nat := (f - m.cleared) / m.cfg.dwell % m.cfg.rows

/-- THR_B of a LEVEL_EYE channel as the frame in progress asks for it: the sweep's step while SURVEYING, else CODE0. -/
def Dev.eyeStep (d : Dev) (n : Nat) : Dev :=
  match d.map_ n with
  | none => d
  | some m =>
    if m.cfg.kind != mapEye then d
    else
      let code := if d.gs.op = .surveying then (m.cfg.code (m.sweepRow d.tb.frame)).toNat else m.cfg.code0
      d.updChan m.cfg.chA fun x =>
        let cc := d.tb.tickCount
        ({ x with cfg := { x.cfg with thrB := code }
                  b := if x.heldB then x.b else x.b.apply cc x.b.mode code x.b.hys false }).reopen d.tb.frame

/-- A map's pages zeroed, and its counters. A change that is due while CAPTURE is in reset or down leaves the pages as they are,
whose contents R380 keeps (DESIGN CHOICE, log 195). -/
def Dev.clearMap (d : Dev) (n : Nat) : Dev :=
  match d.map_ n with
  | none => d
  | some m =>
    let up := d.partUp partCapture
    let zeroed := d.when up fun e => e.onCap fun c =>
      c.put (Mem.zero c.mem m.base (mapPages * pageSize)) (span m.base (mapPages * pageSize))
    ((zeroed.updMap n fun x => x.clear d.tb.frame).eyeStep n).when up fun e => e.writeStatus n

/-- DEFINE_CONTOUR at its tick. -/
def Dev.applyContour (d : Dev) (n : Nat) (cfg : MapCfg) (base : Nat) : Dev :=
  let m : CMap :=
    { num := n, cfg := cfg, base := base, from_ := d.tb.frame, lastFrame := 0, events := 0, skipped := 0, outside := 0,
      cleared := 0, row := 0, lastStep := 0, waiting := [] }
  (d.onCap fun c => { c with maps := (c.maps.filter fun x => x.num < n) ++ [m] ++ c.maps.filter fun x => n < x.num }).clearMap n

def Dev.applyDeleteContour (d : Dev) (n : Nat) : Dev :=
  d.onCap fun c => { c with maps := c.maps.filter fun m => m.num != n }

def Dev.applyClear (d : Dev) (mask : BitVec 16) : Dev := d.each (maskList 16 mask.toNat) Dev.clearMap

/-! ## Events (R243 to R245) -/

/-- What the work of a frame finds for a map: the events' axes values, events that do not count, and the starts of
PHASE_DENSITY that go on waiting. -/
structure MapEvents where
  bins : List (Int × Int)
  skipped : Nat
  waiting : List (Int × Option (Int × Bool))
  deriving DecidableEq, Repr

/-- A value axis: the bin of a value given in 2^-24 gr. -/
def axisBin (v org : Int) (e : Nat) : Int := (v - org * 2 ^ 24) / (2 ^ (e + 24) : Nat)

/-- The frame column of frame f. -/
def CMap.column (m : CMap) (f : Nat) : Nat := (f - m.cleared) / m.cfg.fpc % 1024

/-- The grid point at or before a time, as the distance from it in 2^-24 gr. -/
def gridPhase (grid : List GridSeg) (t : Int) : Option Int :=
  let u := t * 2 ^ 24
  match (grid.filter fun s => 0 < s.points && decide (s.pos ≤ u)).getLast? with
  | none => none
  | some s => some ((u - s.pos) % (max 1 s.step : Nat))

/-- The anchoring item, if its gate is open in frame f, with the gate's first frame. -/
def openAnchor (items : List ItemRun) (ch f : Nat) : Option (ItemRun × Nat) :=
  match anchorOf items ch f with
  | none => none
  | some r => (r.phase.start f).map fun s => (r, s)

/-- The value that a SPECTROGRAM writes for a bin (R248): the BF36 code's value scaled. -/
def scaledPower (scale : Int) (p : Nat) : Nat :=
  let v := bfValue (bfCode p binUnit).1
  let e := scale - 40
  min binMax (if 0 ≤ e then v * 2 ^ e.toNat else v / 2 ^ (-e).toNat)

/-- The 1,024 words of a record's row. -/
def spectroRow (cfg : MapCfg) (i : Item) (bins : List Nat) : List Word :=
  (List.range 1024).map fun x =>
    let lo := i.binLo + 2 ^ cfg.binGroup * x
    let own := (range2 lo (lo + 2 ^ cfg.binGroup - 1)).filter fun b => decide (b ≤ i.binHi)
    w36 (maxN (own.map fun b => scaledPower cfg.scale (bins.getD b 0)))

/-- The nearer of two intervals, the first on a tie. -/
def nearer (a b : Option (Int × Bool)) : Option (Int × Bool) :=
  match a, b with
  | some x, some y => if y.1.natAbs < x.1.natAbs then some y else some x
  | some x, none => some x
  | none, y => y

/-- The stops that starts of gated frame `info` can be near: the last one before the frame, those of the frame and those of
the frame after it, each with whether it lies in the gate: the gated frames that follow one another without a break
(DEDUCED, log 146). -/
def Dev.phaseStops (d : Dev) (c : MapCfg) (info : FrameInfo) : List (Int × Bool) :=
  let f := info.frame
  let a := d.stopsAround c.chB c.senseB f f
  (a.1.toList.map fun x => (x.2, decide (info.stretch ≤ x.1))) ++ ((d.sel c.chB c.senseB f).map fun p => (p, true)) ++
    a.2.map fun p => (p, d.gatedAt (f + 1))

/-- The interval to the nearest of the stops. -/
def nearestOf (stops : List (Int × Bool)) (s : Int) : Option (Int × Bool) :=
  stops.foldl (fun m p => nearer m (some (p.1 - s, p.2))) none

/-- PHASE_DENSITY's pairs (R162, R243): the starts that wait and those of the frame, with the stops through the frame after it.
A start is decided once no later stop can be nearer, or MAX_SPAN has passed, or no gated frame follows; one whose nearest stop
lies outside the gate is unpaired. The events of a frame are all binned by the tick after the next (R245): a start whose stop comes
later than frame f + 1 makes an event of the frame with whose work it is decided, in the column of that (DESIGN CHOICE, log 146).
Of the 64 starts that wait at most, those of the next frame push out the oldest (R163). -/
def Dev.phaseEvents (d : Dev) (m : CMap) (info : FrameInfo) : MapEvents :=
  let c := m.cfg
  let next := (d.info (info.frame + 1)).filter FrameInfo.gated
  let stops := d.phaseStops c info
  let starts := m.waiting ++ (d.sel c.chA c.senseA info.frame).map fun s => (s, none)
  let later := if next.isSome then d.sel c.chA c.senseA (info.frame + 1) else []
  let out := pushedOut (stops.map fun p => p.1) c.maxSpan ((starts.map fun x => x.1) ++ later)
  let found := ((starts.zipIdx.filter fun x => !decide (x.2 ∈ out)).map fun x => x.1).map fun x =>
    (x.1, nearer x.2 (nearestOf stops x.1))
  let known := fun (x : Int × Option (Int × Bool)) =>
    (stops.any fun p => decide (x.1 ≤ p.1)) || (match next with
      | none => true
      | some i => decide (x.1 + c.maxSpan < i.endGr) || x.2.any fun v => decide (x.1 + v.1.natAbs ≤ i.endGr))
  { bins := ((found.filter known).filterMap fun x => match x.2 with
      | some v => if v.1.natAbs ≤ c.maxSpan ∧ v.2 = true then some v.1 else none
      | none => none).map fun v => ((m.column info.frame : Int), axisBin (v * 2 ^ 24) c.yOrg c.ye)
    skipped := 0
    waiting := found.filter fun x => !known x }

/-- Events of a map in gated frame `w`, in stamp order, but for SPECTROGRAM's records. -/
def Dev.mapEvents (d : Dev) (m : CMap) (w : Worked) : MapEvents :=
  let f := w.info.frame
  let c := m.cfg
  let nco := fun (count : Nat) (g : ItemRun → Nat → MapEvents) =>
    match openAnchor w.items c.chA f with
    | some (r, s) => g r s
    | none => { bins := [], skipped := count, waiting := [] }
  let jitter := (((anchorOf w.items c.chA f).map fun r => r.item.sense.getD 0 0).getD 2)
  if c.kind = mapStrip then
    let es := d.sel c.chA jitter f
    nco es.length fun r _ => ⟨es.map fun t => ((m.column f : Int), axisBin ((tieOf r.grid t).2 / 2 ^ 24 * 2 ^ 24) c.yOrg c.ye), 0, []⟩
  else if c.kind = mapPersist then
    let es := d.sel c.chA jitter f
    nco es.length fun r s =>
      let all := d.edgesOver c.chA jitter (d.framesFrom s f)
      let ps := (all.zip (all.drop 1)).drop (all.length - 1 - es.length)
      ⟨ps.map fun p => (axisBin ((tieOf r.grid p.2).2 / 2 ^ 24 * 2 ^ 24) c.xOrg c.xe, axisBin ((p.2 - p.1) * 2 ^ 24) c.yOrg c.ye), 0, []⟩
  else if c.kind = mapEye then
    let es := d.sel (partnerOf c.chA) c.senseA f
    nco es.length fun r _ =>
      let ps := es.map (gridPhase r.grid)
      ⟨(ps.filterMap id).map fun p => (axisBin p c.xOrg c.xe, (m.sweepRow f : Int)), (ps.filter Option.isNone).length, []⟩
  else if c.kind = mapPhase then d.phaseEvents m w.info
  else ⟨[], 0, []⟩

/-! ## Binning (R244, R246, R248) -/

/-- Q_f of a map. -/
def MapCfg.quota (c : MapCfg) (k : Nat) : Nat := c.rate * 2 ^ k / 2500

/-- A bin lies on the map. -/
def onMap (p : Int × Int) : Bool := decide (0 ≤ p.1 ∧ p.1 < 1024 ∧ 0 ≤ p.2 ∧ p.2 < 1024)

/-- The word of a bin. -/
def binAt (base : Nat) (p : Int × Int) : Nat := base + 1024 * p.2.toNat + p.1.toNat

/-- One more in a bin. -/
def binAdd (base : Nat) (mem : List (Nat × Word)) (p : Int × Int) : List (Nat × Word) :=
  let a := binAt base p
  Mem.write mem a (w36 (min binMax ((Mem.read mem a).toNat + 1)))

/-- The records that a SPECTROGRAM map takes of a frame. -/
def CMap.records (m : CMap) (w : Worked) : List (Item × SpecRecord) :=
  match w.items.find? fun r => r.num == m.cfg.specItem && r.covers w.info.frame && r.item.kind == kSpectrum with
  | some r => (r.records.filter fun x => x.frame == w.info.frame && !x.discarded).map fun x => (r.item, x)
  | none => []

/-- One record's row written. -/
def Dev.writeRow (d : Dev) (n : Nat) (x : Item × SpecRecord) : Dev :=
  match d.map_ n with
  | none => d
  | some m =>
    let at_ := m.base + 1024 * (m.row % 1024)
    (d.onCap fun c => c.put (Mem.writes c.mem at_ (spectroRow m.cfg x.1 x.2.bins)) (span at_ 1024)).updMap n fun y => { y with row := y.row + 1, events := y.events + 1 }

/-- The events of gated frame `w` binned. With CHART or CAPTURE away they count as SKIPPED (R380). -/
def Dev.binMap (d : Dev) (m : CMap) (w : Worked) : Dev :=
  let q := m.cfg.quota w.info.k
  let up := d.partUp partChart && d.partUp partCapture
  if m.cfg.kind = mapSpectrogram then
    let rs := m.records w
    let take := if up then rs.take q else []
    (d.each take fun e x => e.writeRow m.num x).updMap m.num fun y => { y with skipped := y.skipped + (rs.length - take.length) }
  else
    let ev := d.mapEvents m w
    let take := if up then ev.bins.take q else []
    let inside := take.filter onMap
    (d.onCap fun c => c.put (inside.foldl (binAdd m.base) c.mem) fun a => inside.any fun p => a == binAt m.base p).updMap m.num fun y =>
      { y with waiting := ev.waiting, events := y.events + inside.length, outside := y.outside + (take.length - inside.length),
               skipped := y.skipped + ev.skipped + (ev.bins.length - take.length) }

/-! ## Decay (R247) -/

/-- Every listed bin of the map decayed. -/
def decayBins (mem : List (Nat × Word)) (base shift : Nat) : List (Nat × Word) :=
  mem.filterMap fun c =>
    if base ≤ c.1 ∧ c.1 < base + binWords then
      let v := c.2.toNat - c.2.toNat / 2 ^ shift
      if v = 0 then none else some (c.1, w36 v)
    else some c

/-- Contents of maps change: neither in FAULT nor in SAFE, nor without CHART and CAPTURE (R380, R383). -/
def Dev.mapsLive (d : Dev) : Bool :=
  d.gs.op != .fault && d.gs.op != .safe && d.partUp partChart && d.partUp partCapture

/-- The decay of tick T. -/
def Dev.decayAt (d : Dev) (m : CMap) (t : Nat) : Dev :=
  ((d.onCap fun c => c.put (decayBins c.mem m.base m.cfg.decayD) (span m.base binWords)).updMap m.num fun x =>
    { x with lastStep := t }).writeStatus m.num

/-- The newest decay tick up to frame f that has not acted. -/
def CMap.decayDue (m : CMap) (f : Nat) : Option Nat :=
  if m.cfg.kind != mapPersist ∨ f < m.cleared then none
  else
    let t := m.cleared + (f - m.cleared) / m.cfg.decayFr * m.cfg.decayFr
    if m.lastStep < t then some t else none

/-- CONTOUR_DECAY: the decay of tick T acts once every event of the frames before T is binned, that is from tick
T + 1 on. -/
def Dev.decayMap (d : Dev) (n : Nat) : Dev :=
  match d.map_ n with
  | none => d
  | some m =>
    match m.decayDue (d.tb.frame - 1) with
    | some t => if d.mapsLive ∧ 1 ≤ d.tb.frame then d.decayAt m t else d
    | none => d

def execContourDecay (map : Nat) (s : State) : Host.Outcome State Fault Refusal := doneDev s (s.dev.decayMap map)

def execLevelEyeStep (map : Nat) (s : State) : Host.Outcome State Fault Refusal := doneDev s (s.dev.eyeStep map)

/-! ## Maps at a tick -/

/-- The frame worked, taken further by one map: a decay of its tick that has not acted yet, its events, its status. -/
def Dev.workMap (d : Dev) (w : Worked) (m0 : CMap) : Dev :=
  let f := w.info.frame
  if d.gs.op = .fault ∨ d.gs.op = .safe ∨ f < m0.cleared then d
  else
    let d1 := match m0.decayDue f with
      | some t => if d.mapsLive then d.decayAt m0 t else d
      | none => d
    let d2 := if w.info.gated && !w.info.noStamps then d1.binMap ((d1.map_ m0.num).getD m0) w else d1
    let d3 := d2.updMap m0.num fun x => { x with lastFrame := f }
    if d3.mapsLive then d3.writeStatus m0.num else d3

/-- The events of the frame worked at this tick are binned in every map. -/
def Dev.workMaps (d : Dev) (w : Option Worked) : Dev :=
  match w with
  | none => d
  | some x => d.each d.cap.maps fun e m => e.workMap x m

/-- The words of a column zeroed. -/
def zeroColumn (mem : List (Nat × Word)) (base x : Nat) : List (Nat × Word) :=
  mem.filter fun c => !(decide (base ≤ c.1 ∧ c.1 < base + binWords) && (c.1 - base) % 1024 == x)

/-- Strip charts roll at the tick just past: the column that it opens is cleared (R244). -/
def Dev.rollMaps (d : Dev) : Dev :=
  let f := d.tb.frame
  d.each d.cap.maps fun e m =>
    if (m.cfg.kind == mapStrip || m.cfg.kind == mapPhase) && m.cleared ≤ f && (f - m.cleared) % m.cfg.fpc == 0 && e.mapsLive then
      e.onCap fun c =>
        c.put (zeroColumn c.mem m.base (m.column f)) fun a => span m.base binWords a && (a - m.base) % 1024 == m.column f
    else e

/-- The body of a CONTOUR sheet (R273). -/
def Dev.contourSheet (d : Dev) (m : CMap) : NewSheet :=
  { type := shContour, source := m.num, frame := d.tb.frame, first := d.tb.frame
    body := m.status d.cap.mem ++ (List.range binWords).map fun i => Mem.read d.cap.mem (m.base + i), cuts := [] }

/-! ## Commands (R242, R249, R250, R329) -/

def Cmd.mapCfg (c : Cmd) : MapCfg :=
  { kind := c.f 1 31 28, chA := c.f 1 27 21, chB := c.f 1 20 14, senseA := c.f 1 13 12, senseB := c.f 1 11 10,
    specItem := c.f 1 9 0, xOrg := signed 72 (nat72 (c.w 2) (c.w 3)), xe := c.f 4 4 0,
    yOrg := signed 72 (nat72 (c.w 5) (c.w 6)), ye := c.f 7 35 31, fpc := c.f 7 20 0, maxSpan := nat40 (c.w 8) (c.w 9),
    decayD := c.f 10 35 32 + 1, decayFr := c.f 10 20 0, code0 := c.f 11 35 22, codeStep := c.s 11 21 10,
    rows := c.f 11 9 0 + 1, dwell := c.f 12 35 28 + 1, scale := c.s 12 27 21, binGroup := c.f 12 20 18, rate := c.f 12 11 0 }

/-- A field that the kind does not use is set, or one that it uses is out of range (R242). -/
def Cmd.contourFaults (c : Cmd) : List Nat :=
  let m := c.mapCfg
  let is := fun (l : List Nat) => decide (m.kind ∈ l)
  let unused := fun (w : Nat) (ks : List Nat) (v : Nat) => (w, !is ks && v != 0)
  let low := m.code 0
  let high := m.code (m.rows - 1)
  faultsOf [
    (1, decide (5 < m.kind)), unused 1 [1, 2, 4, 5] m.chA, unused 1 [5] m.chB, unused 1 [4, 5] m.senseA,
    unused 1 [5] m.senseB, unused 1 [3] m.specItem, (1, decide (95 < m.chA)), (1, decide (95 < m.chB)),
    (1, m.senseA == 3), (1, m.senseB == 3),
    unused 2 [2, 4] (nat72 (c.w 2) (c.w 3)), unused 4 [2, 4] m.xe, (4, decide (24 < m.xe)),
    unused 5 [1, 2, 5] (nat72 (c.w 5) (c.w 6)), unused 7 [1, 2, 5] m.ye, (7, decide (24 < m.ye)), unused 7 [1, 5] m.fpc,
    (7, is [1, 5] && (m.fpc == 0 || decide (2 ^ 20 < m.fpc))), unused 8 [5] m.maxSpan, (8, is [5] && m.maxSpan == 0),
    unused 10 [2] (c.w 10).toNat, (10, is [2] && (m.decayFr == 0 || decide (2 ^ 20 < m.decayFr))),
    unused 11 [4] (c.w 11).toNat,
    (11, is [4] && (m.codeStep == 0 || decide (m.codeStep < -1024 ∨ 1024 < m.codeStep) ||
      decide (low < 0 ∨ 16383 < low ∨ high < 0 ∨ 16383 < high))),
    unused 12 [4] (c.f 12 35 28), unused 12 [3] (c.f 12 27 21), unused 12 [3] m.binGroup,
    (12, is [3] && (decide (m.scale < -16 ∨ 40 < m.scale) || decide (6 < m.binGroup))),
    (12, m.kind != 0 && m.rate == 0), (12, decide (4000 < m.rate))]

/-- Layout of words 1 to 12. -/
def contourLayout : List (List (Nat × Nat)) :=
  [fullWord, fullWord, fullWord, [(4, 0)], fullWord, fullWord, [(35, 31), (20, 0)], [(3, 0)], fullWord, [(35, 32), (20, 0)],
   fullWord, [(35, 18), (11, 0)]]

/-- The checks of a definition against the committed configuration. -/
def Dev.contourFail (d : Dev) (n : Nat) (m : MapCfg) : Option Fail :=
  let others := d.committedMaps.filter fun x => x.1 != n
  let own := d.committedCfg m.chA
  let p := partnerOf m.chA
  firstFail [
    (m.kind == mapSpectrogram && !(d.committedItems.any fun x => x.1 == m.specItem && x.2.kind == kSpectrum), failAt eParam 1),
    (m.kind == mapEye && !(own.bFunc == .partner && own.modeB == .fast), failAt eParam 1),
    (m.kind == mapEye && d.committedItems.any fun x => decide (p ∈ x.2.ch), failAt eResource 1),
    (decide (4000 < sumN (others.map fun x => x.2.rate) + m.rate), failPlain eBudget)]
  <|> d.partsFault [partCapture]

/-- Base of the pages of a map that exists, by what was accepted. -/
def Dev.mapBase (d : Dev) (n : Nat) : Option Nat :=
  let base0 := (d.map_ n).map CMap.base
  d.fw.deferred.foldl (fun b e => match e.effect with
    | .contour x _ base => if x = n then some base else b
    | .deleteContour x => if x = n then none else b
    | _ => b) base0

def mbDefineContour : MbCommand :=
  onDev (form 0x601 [12]) (fun _ => contourLayout) Cmd.contourFaults fun d c =>
    let n := c.f 1 35 32
    let m := c.mapCfg
    if m.kind = 0 then d.deferNext c (.deleteContour n) [w36 ((d.mapBase n).getD 0)]
    else d.check (d.contourFail n m) fun e =>
      match e.mapBase n with
      | some base => e.deferNext c (.contour n m base) [w36 base]
      | none =>
        match firstFit (e.runs none) mapPages with
        | some page => e.deferNext c (.contour n m (page * pageSize)) [w36 (page * pageSize)]
        | none => (e, .fail (failPlain eResource))

def execDefineContour (slot : SlotId) (s : State) : Host.Outcome State Fault Refusal := done (s.accept slot mbDefineContour)

def mbClearContour : MbCommand :=
  onDev (form 0x602 [1]) (fun _ => [[(15, 0)]]) (fun _ => []) fun d c =>
    d.check (d.partsFault [partCapture]) fun e => e.deferNext c (.clearContour (BitVec.ofNat 16 (c.f 1 15 0))) []

def execClearContour (slot : SlotId) (s : State) : Host.Outcome State Fault Refusal := done (s.accept slot mbClearContour)

end Sys2Proof.Machine
end

