-- ==== Sys2Proof/Machine/Chart.lean ====
section
/-! DEFINITION. The Chart port: legend, buffers, renders, frame addresses, timing modes, the link, CRC rectangles and
thermal shedding (10 R251 to R266, 13 R329). -/

namespace Sys2Proof.Machine

/-! ## The legend and the index of a bin (R251, R252) -/

/-- L(v). -/
def logSteps (v : Nat) : Nat := 8 * Nat.log2 v + (v * 8 / 2 ^ Nat.log2 v) % 8

/-- The legend index of a bin value. -/
def legendIndex (log : Bool) (shift : Nat) (lOff : Int) (v : Nat) : Nat :=
  if v = 0 then 0
  else
    let m : Int := if log then (logSteps v : Int) - lOff else (v / 2 ^ shift : Nat)
    (max 1 (min 255 m)).toNat

/-! ## Formats and buffers (R254, R255) -/

/-- Words per line of H pixels. -/
def lineWords (format h : Nat) : Nat :=
  if format = 0 then ceilDiv h 2 else if format = 1 then 2 * ceilDiv h 3 else h

/-- A number rounded up to a multiple of 8. -/
def upTo8 (n : Nat) : Nat := ceilDiv n 8 * 8

/-- The store with pixel x of the line at `addr` written. -/
def putPixel (mem : List (Nat × Word)) (format addr x rgb : Nat) : List (Nat × Word) :=
  if format = 0 then
    let a := addr + x / 2
    let v := rgb / 2 ^ 19 % 32 * 2048 + rgb / 2 ^ 10 % 64 * 32 + rgb / 2 ^ 3 % 32
    let w := (Mem.read mem a).toNat
    Mem.write mem a (w36 (if x % 2 = 0 then w / 2 ^ 16 % 2 ^ 16 * 2 ^ 16 + v else v * 2 ^ 16 + w % 2 ^ 16))
  else if format = 1 then
    let a := addr + 2 * (x / 3)
    let n := (Mem.read mem a).toNat * 2 ^ 36 + (Mem.read mem (a + 1)).toNat
    let lo := 48 - 24 * (x % 3)
    let m := n - n / 2 ^ lo % 2 ^ 24 * 2 ^ lo + rgb * 2 ^ lo
    Mem.write (Mem.write mem a (w36 (m / 2 ^ 36))) (a + 1) (w36 m)
  else Mem.write mem (addr + x) (w36 rgb)

/-- The words that a write of pixel x of the line at `addr` hits. -/
def pixelHits (format addr x a : Nat) : Bool :=
  if format = 0 then a == addr + x / 2
  else if format = 1 then span (addr + 2 * (x / 3)) 2 a
  else a == addr + x

/-- The colour that scan-out takes from pixel x of the line at `addr`. -/
def getPixel (mem : List (Nat × Word)) (format addr x : Nat) : Nat :=
  if format = 0 then
    let v := (Mem.read mem (addr + x / 2)).toNat / 2 ^ (16 * (x % 2)) % 2 ^ 16
    let r := v / 2 ^ 11 % 32
    let g := v / 2 ^ 5 % 64
    let b := v % 32
    (r * 8 + r / 4) * 2 ^ 16 + (g * 4 + g / 16) * 2 ^ 8 + (b * 8 + b / 4)
  else if format = 1 then
    let a := addr + 2 * (x / 3)
    ((Mem.read mem a).toNat * 2 ^ 36 + (Mem.read mem (a + 1)).toNat) / 2 ^ (48 - 24 * (x % 3)) % 2 ^ 24
  else (Mem.read mem (addr + x)).toNat % 2 ^ 24

def Dev.buffer (d : Dev) (n : Nat) : Option Buffer := d.cap.chart.buffers.find? fun b => b.num == n

/-- An address that a buffer holds, as it was committed. -/
def Buffer.holds (b : Buffer) (a : FbAddr) : Bool :=
  a.stride != 0 && decide (b.base ≤ a.addr ∧ a.addr < b.base + b.pages * pageSize)

/-- The buffer is live or pending. -/
def Chart.inUse (c : Chart) (b : Buffer) : Bool := b.holds c.live || (match c.slot with | some a => b.holds a | none => false)

/-! ## Modes and link configurations (R256, R257) -/

/-- Payload of a lane in Mb/s. -/
def lanePayload (rate : Nat) : Nat := [1296, 2160, 4320, 6480].getD rate 0

/-- The configuration fits the mode. -/
def linkFits (mode rate lanes : Nat) : Bool :=
  (timingOf mode).clock * 24 ≤ 99 * lanes * lanePayload rate

/-- The configurations that fit, in the order in which firmware tries them: rate, lanes. -/
def linkConfigs (mode maxRate maxLanes : Nat) (sink : Sink) : List (Nat × Nat) :=
  (range2 0 (min maxRate sink.maxRate)).flatMap fun r =>
    ([1, 2, 4].filter fun l => decide (l ≤ maxLanes ∧ l ≤ sink.maxLanes) && linkFits mode r l).map fun l => (r, l)

/-- LANES as CP_STATUS codes it. -/
def lanesCode (n : Nat) : Nat := if n = 4 then 3 else n

/-! ## Committing an address (R260, R261) -/

/-- MODE_CHANGING. -/
def Chart.changing (c : Chart) : Bool :=
  match c.change with
  | some x => decide (1 ≤ x.step)
  | none => false

/-- The mode against which commits are checked. -/
def Chart.commitMode (c : Chart) : Nat :=
  match c.change with
  | some x => if 1 ≤ x.step then x.mode else c.mode
  | none => c.mode

/-- The checks of R260 for a mode: every line lies within the pages of one buffer. -/
def Chart.addrOk (c : Chart) (mode : Nat) (a : FbAddr) : Bool :=
  let t := timingOf mode
  let last := a.addr + a.stride * (t.v - 1) + lineWords a.format t.h
  a.addr % 8 == 0 && a.stride % 8 == 0 && decide (a.format < 3) && lineWords a.format t.h ≤ a.stride &&
    (t.v == 0 || c.buffers.any fun b => decide (b.base ≤ a.addr ∧ last ≤ b.base + b.pages * pageSize))

/-- The pending address becomes live. -/
def Chart.latch (c : Chart) : Chart :=
  match c.slot with
  | some a => { c with live := a, slot := none, slotLate := false, commitFrame := c.frame }
  | none => c

/-- The latch point: a commit written in the last active line waits for the next one (R261). -/
def Chart.latchPoint (c : Chart) : Chart := if c.slotLate then { c with slotLate := false } else c.latch

/-- Chart timing stands: MODE = OFF, or a re-lock or training of a mode change. -/
def Chart.stands (c : Chart) : Bool := c.mode == 0 || (match c.change with | some m => m.step == 1 | none => false)

/-- Chart timing stands, also while the Chart PLL is re-locked: its domains are stopped (R135). -/
def Dev.chartStands (d : Dev) : Bool := d.cap.chart.stands || d.tb.chart.reacquiring

/-- The line counter n lines later, on the same side of the latch point. -/
def Chart.pastLines (c : Chart) (n : Nat) : Chart :=
  let t := timingOf c.mode
  if c.stands then c else { c with line := min (if c.line < t.v then t.v - 1 else t.vTot - 1) (c.line + n) }

/-- The line counter now: between the events that tell it a free value (log 82). -/
def Dev.chartLine (d : Dev) : Dev :=
  let u := d.nextFree
  u.2.when (!d.chartStands) fun e => e.onChart fun c => c.pastLines (Config.chartLines u.1)

/-- A commit: with MODE = OFF it latches at once. -/
def Chart.commit (c : Chart) (a : FbAddr) : Chart :=
  if c.addrOk c.commitMode a then
    let x := { c with slot := some a, slotLate := c.mode != 0 && c.line + 1 == (timingOf c.mode).v, refused := false }
    if c.mode = 0 ∧ c.commitMode = 0 then x.latch else x
  else { c with refused := true }

/-- A commit in the line that the counter then shows (R260, R261). -/
def Dev.chartCommit (d : Dev) (a : FbAddr) : Dev := d.chartLine.onChart fun c => c.commit a

/-- BAR0 accesses reach the Chart registers. -/
def State.chartOpen (s : State) : Bool := s.watch.perstN && s.dev.partUp partHost && s.dev.partUp partChart

def execCpCommit (value : Lane) (s : State) : Host.Outcome State Fault Refusal :=
  doneDev s (if s.chartOpen && bit value 0 then s.dev.chartCommit s.dev.cap.chart.staged else s.dev)

/-! ## Renders (R253) -/

/-- The value that a target pixel takes: its bin, or the largest of its bins. `i`, `j` count pixels of the target. -/
def Render.value (r : Render) (bin : Nat → Nat → Nat) (i j : Nat) : Nat :=
  let row := fun (y : Nat) => if r.flip then r.sy + y else r.sy + r.sh - 1 - y
  if 0 ≤ r.zoom then
    let z := 2 ^ r.zoom.toNat
    bin (r.sx + i / z) (row (j / z))
  else
    let z := 2 ^ (-r.zoom).toNat
    maxN ((List.range z).flatMap fun a => (List.range z).map fun b => bin (r.sx + i * z + a) (row (j * z + b)))

/-- Target width or height of a source extent. -/
def Render.extent (r : Render) (n : Nat) : Nat := if 0 ≤ r.zoom then n * 2 ^ r.zoom.toNat else n / 2 ^ (-r.zoom).toNat

/-- The pixels of a render that starts now: the bins as they stand, in the legend in force. -/
def Dev.renderPixels (d : Dev) (r : Render) (m : CMap) : List (Nat × Nat × Nat) :=
  let bin := fun x y => (Mem.read d.cap.mem (m.base + 1024 * y + x)).toNat
  (List.range (r.extent r.sh)).flatMap fun j => (List.range (r.extent r.sw)).map fun i =>
    let v := r.value bin i j
    (r.dx + i, r.dy + j, (d.cap.chart.legend.getD (legendIndex r.log r.shift r.lOff v) 0).toNat)

def Dev.updRender (d : Dev) (n : Nat) (f : Render → Render) : Dev :=
  d.onChart fun c => { c with renders := c.renders.map fun r => if r.buffer == n && r.started then f r else r }

/-- A later RENDER_CONTOUR replaces the render with its target at its first tick. -/
def Chart.replaceRender (c : Chart) (n f : Nat) : Chart :=
  match c.renders.find? fun r => r.buffer == n && !r.started && decide (r.due ≤ f) with
  | some r => { c with renders := (c.renders.filter fun x => x.buffer != n) ++ [{ r with started := true }] }
  | none => c

/-- The render with target n ends; one that takes place once is spent. -/
def Chart.endRender (c : Chart) (n : Nat) : Chart :=
  { c with renders := (c.renders.map fun x => if x.buffer == n && x.started then { x with busy := none } else x).filter fun x =>
      !(x.buffer == n && x.started && x.period == 0) }

/-- Renders under way are abandoned: what CAPTURE answers after its reset is discarded (R377). -/
def Chart.abandon (c : Chart) : Chart :=
  (c.renders.filter fun r => r.busy.isSome).foldl (fun x r => x.endRender r.buffer) c

/-- RENDER_START: the render with target `n` starts at the tick just past, if it is due; under SHED it is skipped and
counted (R266). A render that takes place once is spent when it starts. -/
def Dev.renderStart (d : Dev) (n : Nat) : Dev :=
  let f := d.tb.frame
  let d1 := d.onChart fun c => c.replaceRender n f
  match d1.cap.chart.renders.find? fun r => r.buffer == n && r.started with
  | none => d1
  | some r =>
    if r.due ≠ f ∨ !d1.partUp partChart then d1
    else
      let later := fun (x : Render) => { x with due := f + x.period }
      if d1.cap.chart.shed then (d1.updRender n later).onChart fun c => { c with skippedRenders := c.skippedRenders + 1 }
      else
        match d1.map_ r.map with
        | none => d1
        | some m =>
          let px := d1.renderPixels r m
          if !d1.partUp partCapture then (d1.updRender n later).onChart fun c => c.endRender n
          else d1.updRender n fun x => { (later x) with busy := some (if x.useAlt then x.alt.getD n else n, px), useAlt := !x.useAlt && x.alt.isSome }

def execRenderStart (buffer : Nat) (s : State) : Host.Outcome State Fault Refusal := doneDev s (s.dev.renderStart buffer)

/-- RENDER_DONE: the finished image stands in its buffer, which is committed with AUTO_COMMIT. -/
def Dev.renderDone (d : Dev) (n : Nat) : Dev :=
  match d.cap.chart.renders.find? fun r => r.buffer == n && r.started with
  | none => d
  | some r =>
    match r.busy with
    | none => d
    | some (target, px) =>
      let d1 := d.onChart fun c => c.endRender n
      match d.buffer target with
      | none => d1
      | some b =>
        if !d.partUp partChart || !d.partUp partCapture then d1
        else
          (d1.onCap fun c =>
            c.put (px.foldl (fun m p => putPixel m b.format (b.base + b.stride * p.2.1) p.1 p.2.2) c.mem) fun a =>
              px.any fun p => pixelHits b.format (b.base + b.stride * p.2.1) p.1 a).when
            r.autoCommit fun e => e.chartCommit { addr := b.base, stride := b.stride, format := b.format }

def execRenderDone (buffer : Nat) (s : State) : Host.Outcome State Fault Refusal := doneDev s (s.dev.renderDone buffer)

def Cmd.render (c : Cmd) (due : Nat) : Render :=
  { map := c.f 1 35 32, buffer := c.f 1 31 28,
    alt := if c.f 1 27 24 = 15 ∧ !c.b 1 19 then none else some (c.f 1 27 24),
    zoom := c.s 1 23 20, autoCommit := c.b 1 19, flip := c.b 1 18, log := c.b 1 17, shift := c.f 1 16 11,
    lOff := c.s 1 10 1, sx := c.f 2 35 26, sy := c.f 2 25 16, sw := c.f 2 15 5, sh := c.f 3 35 25, dx := c.f 3 24 12,
    dy := c.f 3 11 0, period := c.f 4 20 0, due := due, started := false, useAlt := false, busy := none }

/-- The words of RENDER_CONTOUR at fault: SW or SH that does not suit ZOOM names the word of ZOOM (R298). -/
def Cmd.renderFaults (c : Cmd) : List Nat :=
  let r := c.render 0
  let z := 2 ^ (-r.zoom).toNat
  faultsOf [
    (1, decide (r.zoom < -4 ∨ 4 < r.zoom)), (1, decide (35 < r.shift)), (1, decide (r.lOff < -255 ∨ 287 < r.lOff)),
    (1, r.sw % z != 0 || r.sh % z != 0), (2, r.sw == 0 || decide (1024 < r.sx + r.sw) || decide (1024 < r.sy + r.sh)),
    (3, r.sh == 0), (4, decide (2 ^ 20 < r.period))]

/-- The target lies within a buffer. -/
def Render.fitsIn (r : Render) (b : Option Buffer) : Bool :=
  match b with
  | some b => r.dx + r.extent r.sw ≤ b.width && r.dy + r.extent r.sh ≤ b.height
  | none => false

def mbRenderContour : MbCommand :=
  onDev (form 0x607 [4]) (fun _ => [[(35, 1)], [(35, 5)], fullWord, [(20, 0)]]) Cmd.renderFaults fun d c =>
    let r := c.render d.nextTick
    let altBad := match r.alt with | some a => !r.fitsIn (d.buffer a) | none => false
    d.check (firstFail [((d.mapBase r.map).isNone || (d.buffer r.buffer).isNone, failAt eParam 1),
        (!r.fitsIn (d.buffer r.buffer) || altBad, failAt eParam 1)] <|> d.partsFault [partCapture, partChart]) fun e =>
      (e.onChart fun x =>
        { x with renders := (x.renders.filter fun y => y.started || y.buffer != r.buffer) ++ [r] }, .deferred e.nextTick [])

def execRenderContour (slot : SlotId) (s : State) : Host.Outcome State Fault Refusal := done (s.accept slot mbRenderContour)

/-! ## Legend, buffers, CRC rectangles -/

def mbSetLegend : MbCommand :=
  onDev (form 0x605 (range2 2 31)) (fun c => [(7, 0)] :: List.replicate (c.count - 1) [(23, 0)])
    (fun c => faultsOf [(0, 256 < c.f 1 7 0 + (c.count - 1))]) fun d c =>
    d.check (d.partsFault [partChart]) fun e =>
      let first := c.f 1 7 0
      (e.onChart fun x =>
        { x with legend := x.legend.mapNum fun i v =>
            if first ≤ i ∧ i < first + (c.count - 1) then BitVec.ofNat 24 (c.f (2 + (i - first)) 23 0) else v }, .ok [])

def execSetLegend (slot : SlotId) (s : State) : Host.Outcome State Fault Refusal := done (s.accept slot mbSetLegend)

def Cmd.buffer (c : Cmd) (base : Nat) : Buffer :=
  let w := c.f 1 31 19
  let h := c.f 1 18 7
  let stride := upTo8 (lineWords (c.f 1 6 5) w)
  { num := c.f 1 35 32, width := w, height := h, format := c.f 1 6 5, base := base, pages := ceilDiv (stride * h) pageSize,
    stride := stride }

/-- The buffer of a number removed, and with it the renders into it. -/
def Chart.dropBuffer (c : Chart) (n : Nat) : Chart := { c with buffers := c.buffers.filter fun b => b.num != n }

def mbDefineChartBuffer : MbCommand :=
  onDev (form 0x603 [1]) (fun _ => [[(35, 5)]])
    (fun c => faultsOf [(1, c.f 1 31 19 != 0 && (decide (c.f 1 31 19 < 16 ∨ 4096 < c.f 1 31 19) ||
      decide (c.f 1 18 7 < 16 ∨ 2304 < c.f 1 18 7) || c.f 1 6 5 == 3))]) fun d c =>
    let n := c.f 1 35 32
    let busy := match d.buffer n with | some b => d.cap.chart.inUse b | none => false
    d.check (firstFail [(busy, failPlain eBusy)] <|> d.partsFault [partCapture, partChart]) fun e =>
      let e1 := e.onChart fun x => x.dropBuffer n
      if c.f 1 31 19 = 0 then (e1, .ok [w36 0, w36 0])
      else
        match firstFit (e1.runs none) (c.buffer 0).pages with
        | none => (e, .fail (failPlain eResource))
        | some page =>
          let b := c.buffer (page * pageSize)
          (e1.onChart fun x => { x with buffers := x.buffers ++ [b] }, .ok [w36 b.base, w36 b.stride])

def execDefineChartBuffer (slot : SlotId) (s : State) : Host.Outcome State Fault Refusal :=
  done (s.accept slot mbDefineChartBuffer)

/-- A rectangle within the active area of a mode. -/
def CrcRect.inside (r : CrcRect) (mode : Nat) : Bool :=
  r.x0 + r.w ≤ (timingOf mode).h && r.y0 + r.h ≤ (timingOf mode).v && 1 ≤ r.h

def mbSetCrcRect : MbCommand :=
  onDev (form 0x606 [2]) (fun _ => [[(35, 33), (31, 7)], [(31, 7)]]) (fun _ => []) fun d c =>
    let r : CrcRect := ⟨c.f 1 31 19, c.f 1 18 7, c.f 2 31 19, c.f 2 18 7⟩
    d.check (firstFail [(r.w != 0 && !r.inside d.cap.chart.mode, failAt eParam 1)] <|> d.partsFault [partChart]) fun e =>
      (e.onChart fun x =>
        { x with pendingRects := x.pendingRects ++ [(c.f 1 35 33, if r.w = 0 then none else some r)] }, .ok [])

def execSetCrcRect (slot : SlotId) (s : State) : Host.Outcome State Fault Refusal := done (s.accept slot mbSetCrcRect)

/-! ## Changing the mode (R263) -/

/-- The port in OFF: no video, no link, timing stopped. -/
def Chart.off (c : Chart) : Chart :=
  { c with mode := 0, rate := 0, lanes := 0, linkUp := false, scanning := false, change := none, line := 0, scanNow := false }

/-- Rectangles that do not lie within the active area lose VALID until they are defined again (R263). -/
def Chart.fitRects (c : Chart) : Chart :=
  let out := fun (r : Option CrcRect) => match r with
    | some r => !r.inside c.mode
    | none => false
  let gone := listMask ((c.rects.zipIdx.filter fun x => out x.1).map fun x => x.2)
  { c with rects := c.rects.map fun r => if out r then none else r, crcValid := c.crcValid &&& ~~~(BitVec.ofNat 8 gone) }

/-- The new timing is in force. -/
def Chart.setTiming (c : Chart) (m : ModeChange) : Chart :=
  ({ c with mode := m.mode, rate := m.rate, lanes := m.lanes, scanning := false, line := 0 }).fitRects

/-- Re-lock and training are over: the new timing starts. -/
def Chart.trained (c : Chart) : Chart :=
  match c.change with
  | some m => if m.step = 1 ∧ !m.needLock ∧ !m.needTrain then { (c.setTiming m) with change := some { m with step := 2 } } else c
  | none => c

/-- The Chart PLL re-locks. -/
def Dev.relockChart (d : Dev) : Dev :=
  ((d.stopOutputs 3 false).onTb fun t => { t with chart := { t.chart with locked := false, reacquiring := true } }).acquire .chart

/-- The port goes to OFF: every CLKOUT from CHART stops (R258). -/
def Dev.chartOff (d : Dev) : Dev := (d.stopOutputs 3 true).onChart Chart.off

/-- The change leaves the old mode: MODE_CHANGING is set, the Chart PLL re-locks if a clock changes, and the link is
retrained if its rate or lanes change. With neither the new timing starts at once. -/
def Dev.startChange (d : Dev) (m : ModeChange) : Dev :=
  let c := d.cap.chart
  let lock := c.mode != m.mode || c.rate != m.rate
  let train := c.rate != m.rate || c.lanes != m.lanes || !c.linkUp
  let x := { m with step := 1, needLock := lock, needTrain := train }
  let d1 := d.onChart fun y =>
    ({ y with change := some x, scanning := false, linkUp := y.linkUp && !train, line := 0 }).trained
  d1.when lock Dev.relockChart

/-- The command of a mode change finishes. -/
def Dev.finishChange (d : Dev) (m : ModeChange) (r : Reply) : Dev :=
  match m.slot with
  | some s => d.reply s r
  | none => d

/-- PROGRESS of a mode change: a fifth for each of its steps (R298, log 104). -/
def Dev.changeProgress (d : Dev) : Dev :=
  match d.cap.chart.change with
  | some m => match m.slot with
    | some s => d.progress s (200 * m.step)
    | none => d
  | none => d

/-- LINK of the response (R329). -/
def Chart.link (c : Chart) : Word := word [(3, 2, c.rate), (1, 0, lanesCode c.lanes)]

/-- The Chart PLL has locked. -/
def Dev.chartLocked (d : Dev) : Dev :=
  (d.onChart fun c =>
    match c.change with
    | some m => ({ c with change := some { m with needLock := false } }).trained
    | none => c).changeProgress

/-- The configurations that are left after one that did not train. -/
def Chart.configsLeft (c : Chart) (mode rate lanes : Nat) : List (Nat × Nat) :=
  (linkConfigs mode c.maxRate c.maxLanes c.sink).filter fun x => decide (rate < x.1 ∨ rate = x.1 ∧ lanes < x.2)

/-- A mode change trains with the first of these configurations, and the Chart PLL re-locks if the rate is another; with none left
it fails, and the port goes to OFF (R257). -/
def Dev.retrainChange (d : Dev) (m : ModeChange) (configs : List (Nat × Nat)) : Dev :=
  match configs.head? with
  | some x =>
    let lock := m.rate != x.1
    (d.onChart fun y =>
      { y with change := some { m with rate := x.1, lanes := x.2, needTrain := true, needLock := m.needLock || lock } }).when lock
      Dev.relockChart
  | none => d.chartOff.finishChange m (.fail (failPlain eLink))

/-- The new timing of a mode change is in force: its black frames are sent. -/
def Chart.inBlack (c : Chart) : Bool := c.change.any fun m => decide (2 ≤ m.step)

/-- Retraining to the mode in force with the first of these configurations; the Chart PLL re-locks if the rate is another (R115).
With none the port goes to OFF, as R257 says of a mode change (DEDUCED, log 147), and a mode change under way fails. -/
def Dev.retrain (d : Dev) (configs : List (Nat × Nat)) : Dev :=
  let c := d.cap.chart
  match configs.head? with
  | some k =>
    (d.onChart fun y =>
      { y with rate := k.1, lanes := k.2, linkUp := false, scanning := false
               change := y.change.map fun m => if c.inBlack then { m with rate := k.1, lanes := k.2 } else m }).when
      (c.rate != k.1) Dev.relockChart
  | none => match c.change with
    | some m => d.chartOff.finishChange m (.fail (failPlain eLink))
    | none => d.chartOff

/-- Training has ended: on failure the next configuration that fits is tried; with none left the port goes to OFF. A link that
came up again before or after the training of a mode change serves the mode in force (R258). -/
def Dev.linkTrained (d : Dev) (good : Bool) : Dev :=
  let c := d.cap.chart
  match c.change.filter fun m => m.step == 1 with
  | some m =>
    if !m.needTrain then d
    else if good then
      (d.onChart fun y => ({ y with linkUp := true, change := some { m with needTrain := false } }).trained).changeProgress
    else d.retrainChange m (c.configsLeft m.mode m.rate m.lanes)
  | none =>
    if c.mode = 0 ∨ !c.hpd ∨ c.linkUp then d
    else if good then d.onChart fun y => { y with linkUp := true, resumeDue := !y.shed }
    else d.retrain (c.configsLeft c.mode c.rate c.lanes)

def execLinkTrainingDone (good : Bool) (s : State) : Host.Outcome State Fault Refusal := doneDev s (s.dev.linkTrained good)

def mbSetChartMode : MbCommand :=
  onDev (form 0x604 [1]) (fun _ => [[(8, 0)]])
    (fun c => faultsOf [(1, decide (6 < c.f 1 3 0)), (1, !decide (c.f 1 6 4 ∈ [1, 2, 4]))]) fun d c =>
    let mode := c.f 1 3 0
    let x := d.cap.chart
    d.check (firstFail [(x.change.isSome, failPlain eBusy), (mode != 0 && !x.addrOk mode x.staged, failAt eParam 1)] <|>
        d.partsFault [partChart]) fun e =>
      let cfgs := linkConfigs mode (c.f 1 8 7) (c.f 1 6 4) (if x.hpd then x.sink else Sink.none)
      let e1 := e.onChart fun y => { y with maxLanes := c.f 1 6 4, maxRate := c.f 1 8 7 }
      if mode = 0 then
        if x.mode = 0 then (e1, .ok [e1.cap.chart.link])
        else (e1.onChart fun y => { y with change := some ⟨some c.slot, 0, 0, 0, 0, false, false⟩ }, .running)
      else
        match cfgs.head? with
        | none => (e1.chartOff, .fail (failPlain eLink))
        | some k =>
          let m : ModeChange := ⟨some c.slot, mode, k.1, k.2, 0, false, false⟩
          (if x.mode = 0 then e1.startChange m else e1.onChart fun y => { y with change := some m }, .running)

def execSetChartMode (slot : SlotId) (s : State) : Host.Outcome State Fault Refusal := done (s.accept slot mbSetChartMode)

/-! ## Chart frames (R261 to R265) -/

/-- Rectangles at a frame start. -/
def Chart.takeRects (c : Chart) : Chart :=
  let one := fun (x : Chart) (p : Nat × Option CrcRect) =>
    { x with rects := x.rects.set p.1 p.2, crcValid := x.crcValid &&& ~~~(BitVec.ofNat 8 (2 ^ p.1)) }
  (c.pendingRects.foldl one { c with pendingRects := [] }).fitRects

/-- Line 0 of a frame: the counter, SCAN_EN, rectangles, the end of shedding or of a link loss. -/
def Chart.openFrame (c : Chart) : Chart :=
  let x := { c.takeRects with line := 0, frame := (c.frame + 1) % 2 ^ 32, scanNow := c.scanEn, missing := [] }
  let black := x.change.isSome
  if x.resumeDue && x.linkUp && !x.shed && !black then { x with resumeDue := false, scanning := true, suspend := 2 }
  else { x with scanning := x.scanning && !x.shed, suspend := x.suspend - 1 }

/-- A black frame of a mode change opens. -/
def Chart.openBlack (c : Chart) : Chart :=
  match c.change with
  | some m => if 2 ≤ m.step then { c.openFrame with change := some { m with step := m.step + 1 } } else c
  | none => c

/-- CHART_FRAME_START: the frame before ends and the next one opens. A mode change that needs neither a lock nor training
opens its first black frame here. -/
def Dev.chartFrameStart (d : Dev) : Dev :=
  let c := d.cap.chart
  if !d.partUp partChart || d.tb.chart.reacquiring then d
  else match c.change with
    | none => if c.mode = 0 then d else d.onChart Chart.openFrame
    | some m =>
      if m.step = 0 then
        if m.mode = 0 then
          let e := d.chartOff
          e.finishChange m (.ok [e.cap.chart.link])
        else ((d.startChange m).onChart Chart.openBlack).changeProgress
      else if m.step = 1 then d
      else if m.step = 4 then
        let e := d.onChart fun y => { ({ y with change := none }).openFrame with scanning := y.linkUp && !y.shed, suspend := 2 }
        e.finishChange m (.ok [e.cap.chart.link])
      else (d.onChart Chart.openBlack).changeProgress

def execChartFrameStart (s : State) : Host.Outcome State Fault Refusal := doneDev s s.dev.chartFrameStart

/-- The colour sent for pixel (x, y) of the frame scanned: from the live buffer, or CP_BG past an underrun. -/
def Dev.sent (d : Dev) (x y : Nat) : Nat :=
  let c := d.cap.chart
  let gone := match c.missing.find? fun m => m.1 == y with
    | some m => decide (m.2 ≤ x)
    | none => false
  if gone then c.bg.toNat else getPixel d.cap.mem c.live.format (c.live.addr + c.live.stride * y) x

/-- The CRC of a rectangle as sent. -/
def Dev.rectCrc (d : Dev) (r : CrcRect) : Nat :=
  crc32 ((List.range r.h).flatMap fun j => (List.range r.w).flatMap fun i =>
    let v := d.sent (r.x0 + i) (r.y0 + j)
    [v / 2 ^ 16 % 256, v / 2 ^ 8 % 256, v % 256])

/-- The CRCs of a frame at its latch point, rectangle by rectangle. -/
def Dev.crcRect (d : Dev) (x : Option CrcRect × Nat) : Dev :=
  match x.1 with
  | none => d
  | some r =>
    if !r.inside d.cap.chart.mode then d
    else
      let v := BitVec.ofNat 32 (d.rectCrc r)
      let one : BitVec 8 := BitVec.ofNat 8 (2 ^ x.2)
      let c := d.cap.chart
      let checked := bit c.check x.2
      let bad := checked && v != c.crcExpect.getD x.2 0
      (d.onChart fun y =>
        { y with crcValue := y.crcValue.set x.2 v, crcValid := y.crcValid ||| one, crcFrame := y.frame,
                 crcMismatch := if checked then (if bad then y.crcMismatch ||| one else y.crcMismatch &&& ~~~one)
                   else y.crcMismatch,
                 crcCount := if bad then clampU 16 (y.crcCount + 1) else y.crcCount }).when bad fun e =>
        (e.setFlag flagCrcMismatch).pulse 345

/-- CHART_LATCH_POINT: line V_act. The pending address, or in the second black frame the staged one, becomes live;
CRCs of a scanned frame are written; source 343 follows. -/
def Dev.chartLatch (d : Dev) : Dev :=
  let c := d.cap.chart
  if d.chartStands || !d.partUp partChart then d
  else
    let scanned := c.scanning && c.scanNow && !c.changing
    let d1 := if scanned && c.crcEn && c.suspend == 0 then d.each c.rects.zipIdx Dev.crcRect else d
    let d2 := d1.onChart fun y =>
      match y.change with
      | some m =>
        if m.step = 4 then { y with live := y.staged, slot := none, slotLate := false, commitFrame := y.frame }
        else y.latchPoint
      | none => y.latchPoint
    (d2.onChart fun y => { y with line := (timingOf y.mode).v }).pulse 343

def execChartLatchPoint (s : State) : Host.Outcome State Fault Refusal := doneDev s s.dev.chartLatch

/-- Lines are fetched: SCAN_EN holds and no black frame is sent. Fetch goes on with HPD lost (R258), and ends with scan-out
under SHED (R266). -/
def Chart.fetches (c : Chart) : Bool := c.scanNow && !c.stands && !c.changing && (c.scanning || !c.shed)

/-- CHART_UNDERRUN (R262): it tells the line as well. -/
def Dev.chartUnderrun (d : Dev) (line first : Nat) : Dev :=
  let c := d.cap.chart
  if c.fetches && !d.chartStands && d.partUp partChart && decide (line < (timingOf c.mode).v) then
    ((d.onChart fun y => { y with underruns := clampU 32 (y.underruns + 1), lastUnderrun := y.frame,
                                  line := max line y.line,
                                  missing := (line, first) :: y.missing }).setFlag flagUnderrun).pulse 344
  else d

def execChartUnderrun (line firstMissing : Nat) (s : State) : Host.Outcome State Fault Refusal :=
  doneDev s (s.dev.chartUnderrun line firstMissing)

/-! ## The sink (R258) -/

def execHpdLoss (s : State) : Host.Outcome State Fault Refusal :=
  doneDev s (s.dev.onChart fun c => { c with hpd := false, linkUp := false, scanning := false, resumeDue := false })

/-- HPD_RETURN: EDID and DPCD are read again, and the link is retrained to the mode in force. A mode change that has not come to
its training yet, or trains, takes a configuration of the new sink. -/
def Dev.hpdReturn (d : Dev) (sink : Sink) : Dev :=
  let d1 := d.onChart fun y => { y with hpd := true, sink := sink }
  let c := d.cap.chart
  let configs := fun mode => linkConfigs mode c.maxRate c.maxLanes sink
  match c.change with
  | none => if c.mode = 0 then d1 else d1.retrain (configs c.mode)
  | some m =>
    if m.step = 1 then d1.retrainChange m (configs m.mode)
    else if 2 ≤ m.step ∨ m.mode = 0 then d1.retrain (configs c.mode)
    else match (configs m.mode).head? with
      | some k => (d1.onChart fun y => { y with change := some { m with rate := k.1, lanes := k.2 } }).retrain (configs c.mode)
      | none => d1.chartOff.finishChange m (.fail (failPlain eLink))

def execHpdReturn (sink : Sink) (s : State) : Host.Outcome State Fault Refusal := doneDev s (s.dev.hpdReturn sink)

/-- HPD_IRQ: a link that has failed is retrained. -/
def Chart.linkFailed (c : Chart) : Chart :=
  { c with linkUp := false, scanning := false
           change := c.change.map fun m => if m.step = 1 then { m with needTrain := true } else m }

def execHpdIrq (linkGood : Bool) (s : State) : Host.Outcome State Fault Refusal :=
  doneDev s (if linkGood || !s.dev.cap.chart.hpd then s.dev else s.dev.onChart Chart.linkFailed)

/-! ## Resets and shedding (R259, R266, R380) -/

/-- Registers and legend at their reset values; buffers keep their definitions. -/
def Chart.afterReset (c : Chart) : Chart :=
  { Chart.reset with buffers := c.buffers, hpd := c.hpd, sink := c.sink, skippedRenders := c.skippedRenders }

/-- SHED set or cleared; video resumes at a frame start once it clears. -/
def Chart.setShed (c : Chart) (on : Bool) : Chart :=
  if on then { c with shed := true } else { c with shed := false, resumeDue := c.resumeDue || (c.shed && c.linkUp && c.mode != 0) }

/-- CP_STATUS (R259). -/
def Chart.status (c : Chart) : Lane :=
  lane [(0, 0, b2n c.slot.isSome), (1, 1, b2n c.changing), (2, 2, b2n c.scanning), (3, 3, b2n c.hpd), (4, 4, b2n c.linkUp),
    (5, 5, b2n c.shed), (6, 6, b2n (c.suspend != 0)), (7, 7, b2n c.refused),
    (8, 8, b2n (c.mode != 0 && decide ((timingOf c.mode).v ≤ c.line))), (15, 12, c.mode), (17, 16, lanesCode c.lanes), (19, 18, c.rate)]

def FbAddr.lane (a : FbAddr) : Lane := Machine.lane [(31, 0, a.addr), (55, 32, a.stride), (57, 56, a.format)]

end Sys2Proof.Machine
end

