-- ==== Sys2Proof/Machine/Atlas.lean ====
section
/-! DEFINITION. The Atlas commands and the events of the flash: format, open and recovery, reading sheets back, fences,
programs, reclaim, bad blocks, scrub, power failure and health (11 R267 to R290, 13 R330). -/

namespace Sys2Proof.Machine

/-- MiB of a number of payload words. -/
def wordsMiB (n : Nat) : Nat := n / 910 / 256

/-- The commands of the Atlas that are in progress and can no longer be served end with a failure. -/
def Dev.failAtlas (d : Dev) (e : Fail) : Dev :=
  let slots := (d.atlas.fences.map fun f => f.1) ++ d.atlas.reads.map fun r => r.slot
  (d.onAtlas fun a => { a with fences := [], reads := [] }).each slots fun x s => x.reply s (.fail e)

/-! ## ATLAS_FORMAT (R282) -/

def mbAtlasFormat (targets : List Target) : MbCommand :=
  onDev (form 0x701 [1]) (fun _ => [[(11, 0)]]) (fun c => faultsOf [(1, c.f 1 11 0 != 0x5A5)]) fun d c =>
    let bad := (firstBadTarget targets).map fun t => failObj eMedia 0xFFF 6 t
    d.check (d.partsFault ((populated targets).map partAtlas) <|> bad) fun e =>
      if targets = [] then (e, .fail (failPlain eMedia))
      else
        let e1 := e.failAtlas (failPlain eState)
        (e1.onAtlas fun a =>
          let blocks := freshBlocks targets a.blocks
          { a with st := .closed, targets := targets, ddr := populated targets, initialised := true, formatted := false, sheets := [], laid := 0,
                   programmed := 0, copies := [], blocks := blocks, nextPage := 0, ahead := [], rewrites := [], inflight := [],
                   moves := [], lost := [], badCopies := [], scrubs := [], collecting := [], gap := none, opening := none,
                   formatting := some ⟨c.slot, (blocks.zipIdx.filter fun x => !x.1.factory).map fun x => x.2⟩ }, .running)

def execAtlasFormat (slot : SlotId) (targets : List Target) (s : State) : Host.Outcome State Fault Refusal :=
  done (s.accept slot (mbAtlasFormat targets))

/-- The first two good blocks of each target take its metadata area (R284). -/
def Atlas.placeRecords (a : Atlas) : Atlas :=
  let good := a.blocks.zipIdx.filter fun x => !x.1.bad
  let chosen := (List.range a.targets.length).flatMap fun t => ((good.filter fun x => x.1.target == t).take 2).map fun x => x.2
  { a with blocks := a.blocks.mapNum fun n b => { b with records := decide (n ∈ chosen) } }

/-- The last erase of a format is over: the journal opens empty, or its capacity does not suffice. -/
def Dev.finishFormat (d : Dev) (slot : Nat) : Dev :=
  let mib := d.atlas.usable
  let q := d.nextFree
  let u := BitVec.ofNat 32 (Config.unstated q.1)
  let id := if u = d.atlas.formatId then u + 1 else u
  if mib < 16 * 1024 then
    (d.onAtlas fun a => { a with formatting := none }).reply slot (.fail (failPlain eMedia))
  else
    (q.2.onAtlas fun a =>
      { a.placeRecords with
        st := .open, policy := AtlasPolicy.reset, pendingPolicy := none, formatted := true, formatId := id, seqNext := 1,
        lastFenced := 0, dropped := 0, gaps := 0, truncatedSheets := 0, dropSinceFence := false, formatting := none,
        usableMiB := mib, appended := 0, pagesDone := 0, refreshed := 0, discarded := 0, cleanClose := true,
        filled := false, unpowered := false }).reply slot
      (.ok [w36 mib, w36 id.toNat])

/-! ## ATLAS_OPEN (R280, R288) -/

/-- Oldest and newest SEQ of the journal. -/
def Atlas.oldest (a : Atlas) : Nat := (a.sheets.head?.map fun s => s.seq).getD a.seqNext
def Atlas.newest (a : Atlas) : Nat := a.seqNext - 1

/-- Newest programmed SEQ. -/
def Atlas.newestDone (a : Atlas) : Nat :=
  ((a.sheets.filter fun s => !a.waits s).getLast?.map fun s => s.seq).getD (a.oldest - 1)

/-- The response of ATLAS_OPEN. -/
def Dev.openWords (d : Dev) : List Word :=
  let a := d.atlas
  [w36 ((d.cap.rbuf.map fun r => r.1 * pageSize).getD 0)] ++ words72 a.oldest ++ words72 a.newest ++
    [w36 a.discarded, w36 (b2n a.cleanClose)]

/-- An open has completed: RBUF_PAGES of it is what STORE_SETTINGS captures (R371). -/
def Dev.opened (d : Dev) : Dev :=
  d.onAtlas fun a => { a with rbufPages := (d.cap.rbuf.map fun r => r.2).getD a.rbufPages }

/-- Recovery begins with the copies of the newest checkpoint. -/
def Atlas.beginOpen (a : Atlas) (slot : Option Nat) (targets : List Target) : Atlas :=
  { a with st := .opening, targets := targets, ddr := populated targets, initialised := true, badCopies := [],
           opening := some { slot := slot, copies := a.copies, at_ := if a.copies.isEmpty then some a.kept else none } }

/-- The flash attached is that of the journal: the same places and geometry. -/
def Atlas.sameFlash (a : Atlas) (ts : List Target) : Bool :=
  a.targets.length == ts.length && (a.targets.zip ts).all fun x =>
    x.1.channel == x.2.channel && x.1.chipEnable == x.2.chipEnable && x.1.sameAs x.2

def mbAtlasOpen (targets : List Target) : MbCommand :=
  onDev (form 0x702 [1]) (fun _ => [[(16, 0)]])
    (fun c => faultsOf [(1, c.f 1 16 0 == 0 || decide (65536 < c.f 1 16 0))]) fun d c =>
    let n := c.f 1 16 0
    let fresh := d.onCap fun x => { x with rbuf := none }
    match firstFit (fresh.runs none) n with
    | none => (d, .fail (failPlain eResource))
    | some page =>
      let e := d.onCap fun x => { x with rbuf := some (page, n) }
      if d.atlas.isOpen then d.check (d.partsFault [partCapture]) fun _ => (e.opened, .ok e.openWords)
      else
        let bad := (firstBadTarget targets).map fun t => failObj eMedia 0xFFF 6 t
        match d.partsFault (partCapture :: (populated targets).map partAtlas) <|> bad with
        | some f => (d, .fail f)
        | none =>
          if !d.atlas.formatted ∨ targets = [] ∨ !d.atlas.sameFlash targets then (d, .fail (failPlain eMedia))
          else (e.onAtlas fun a => a.beginOpen (some c.slot) targets, .running)

def execAtlasOpen (slot : SlotId) (targets : List Target) (s : State) : Host.Outcome State Fault Refusal :=
  done (s.accept slot (mbAtlasOpen targets))

/-- The copy of a stream page in a block has a codeword that does not check. -/
def Atlas.badPage (a : Atlas) (block page : Nat) : Bool :=
  a.badCopies.any fun x => x.1 == block && x.2 / a.pageCodewords == page

/-- What the moves that a loss of power cut short leave: a page that two blocks hold stays in the older one, also in the newer
one where a codeword of the older does not check, and a block left without a page is to be erased (R288). A block that was to
retire or to be refreshed still is (R283, R285). -/
def Atlas.settleMoves (a : Atlas) : Atlas :=
  let b := a.moves.foldl (fun x m => match m.dst with
    | some n => x.updBlock n fun b =>
        let pages := b.pages.filter fun p => decide (p ∉ (a.block m.src).pages) || a.badPage m.src p
        { b with pages := pages, erasing := pages.isEmpty && b.used != 0 }
    | none => x) a
  { b with moves := (b.moves.filter fun m => m.why == .retire || m.why == .refresh).map fun m =>
             { m with dst := none, left := (b.block m.src).pages } }

/-- The stream goes on at a page boundary: later pages in blocks hold nothing of it, and a block that was to retire and is left
without a page is a grown bad block. -/
def Atlas.cutStream (a : Atlas) (tail : Nat) : Atlas :=
  let page := tail / a.pageWords
  let moves := a.moves.map fun m => { m with left := m.left.filter (· < page) }
  { a with laid := tail, programmed := tail, nextPage := page, ahead := [], rewrites := [], inflight := [],
           lost := a.lost.filter fun n => decide (n * 910 < tail), badCopies := a.badCopies.filter fun x => decide (x.2 * 910 < tail),
           moves := moves.filter fun m => !m.left.isEmpty,
           blocks := a.blocks.map fun b =>
             let pages := b.pages.filter (· < page)
             if b.retiring && pages.isEmpty then { b with pages := [], retiring := false, grown := true, erasing := false }
             else { b with pages := pages, erasing := b.erasing || (pages.isEmpty && !b.pages.isEmpty) } }

/-- The journal ends at a stream position: what is not whole before it is discarded (R288). -/
def Atlas.endAt (a : Atlas) (pos : Nat) : Atlas :=
  let whole := a.sheets.takeWhile fun s => s.stop ≤ pos
  let lost := a.sheets.drop whole.length
  let tail := a.pageEnd (max pos ((whole.getLast?.map Sheet.stop).getD a.kept))
  let b := a.settleMoves.cutStream tail
  { b with st := if b.spareBlocks = 0 then .readOnly else if b.filled then .full else .open
           opening := none, sheets := whole,
           discarded := sumN (lost.map fun s => min s.stop a.programmed - min s.place a.programmed),
           seqNext := match whole.getLast? with
             | some s => s.seq + 1
             | none => (lost.head?.map fun s => s.seq).getD a.seqNext }

/-- The blocks that hold data. -/
def Atlas.heldBlocks (a : Atlas) : List Nat := (a.blocks.zipIdx.filter fun x => x.1.holds).map fun x => x.2

/-- The channels of those blocks. -/
def Atlas.heldChannels (a : Atlas) : List Nat := (List.range 8).filter fun ch => a.heldBlocks.any fun n => a.channelOf n == ch

/-- A full retention pass over the blocks that hold data (R285). -/
def Atlas.startScrub (a : Atlas) (slot : Option Nat) : Atlas :=
  { a with scrubs := a.scrubs ++ [⟨slot, false, a.heldBlocks, a.heldBlocks.length⟩] }

/-- Recovery ends there; the command that asked for it finishes. After a time without power a full pass begins. -/
def Dev.finishOpen (d : Dev) (slot : Option Nat) (pos : Nat) : Dev :=
  let e := (d.onAtlas fun a =>
    let b := a.endAt (min pos a.programmed)
    if b.unpowered then { b.startScrub none with unpowered := false } else b).opened
  match slot with
  | some s => e.reply s (.ok e.openWords)
  | none => e

/-! ## ATLAS_READ (R280) -/

/-- The read window in words. -/
def Capture.window (c : Capture) : Nat := (c.rbuf.map fun r => r.2 * pageSize).getD 0

/-- Oldest and newest programmed SEQ, as E_BUSY and E_PARAM give them. -/
def Atlas.range (a : Atlas) : List Word := words72 a.oldest ++ words72 a.newestDone

/-- Frame f is at or after frame g on the circle of R177. -/
def frameFrom (f g : Nat) : Bool := (f + 2 ^ 40 - g % 2 ^ 40) % 2 ^ 40 < 2 ^ 39

/-- The sheet that a KEY names, or the code of the failure. -/
def Atlas.locate (a : Atlas) (c : Cmd) : Sheet ⊕ Nat :=
  if c.b 1 0 then
    match a.sheets.find? fun s => s.type == c.f 1 8 1 && frameFrom s.frame (nat40 (c.w 2) (c.w 3)) with
    | some s => if a.waits s then .inr eBusy else .inl s
    | none => .inr eBusy
  else
    let k := nat72 (c.w 2) (c.w 3)
    match a.sheets.find? fun s => s.seq == k with
    | some s => if a.waits s then .inr eBusy else .inl s
    | none => .inr (if k < a.seqNext then eParam else eBusy)

/-- Resp 0 to 6 of a read. -/
def AtlasRead.words (r : AtlasRead) (s : Sheet) : List Word :=
  words72 s.seq ++ [w36 r.copied, w36 (r.bad.getD (2 ^ 36 - 1))] ++ words72 s.body.length ++ [s.words.headD 0]

/-- A finished read: the words copied follow from resp 8 on. -/
def Dev.finishRead (d : Dev) (r : AtlasRead) (s : Sheet) : Dev :=
  let base := (d.cap.rbuf.map fun x => x.1 * pageSize).getD 0
  let some_ := (List.range (min 56 r.copied)).map fun i => Mem.read d.cap.mem (base + i)
  match r.bad with
  | some _ => d.reply r.slot (.fail { code := eMedia, index := 0xFFF, detail := 0, resp := r.words s })
  | none => d.reply r.slot (.ok (r.words s ++ [0] ++ some_))

/-- The blocks whose copy of codeword n checks so far as is known, the older first. -/
def Atlas.goodHolders (a : Atlas) (n : Nat) : List Nat :=
  (a.holders (n / a.pageCodewords)).filter fun b => decide ((b, n) ∉ a.badCopies)

/-- The block from which codeword n is read. -/
def Atlas.blockOf (a : Atlas) (n : Nat) : Option Nat := (a.goodHolders n).head?

/-- The channels whose codewords a read still needs (R289). -/
def Atlas.readChannels (a : Atlas) (r : AtlasRead) : List Nat :=
  match a.sheets.find? fun s => s.seq == r.seq with
  | none => []
  | some s =>
    let first := s.place + r.offset + r.copied
    let last := s.place + r.offset + r.count - 1
    (range2 (first / 910) (last / 910)).filterMap fun n => (a.blockOf n).map a.channelOf

/-- ATLAS_READ. Every refusal with E_PARAM or E_BUSY gives the range of programmed sheets. -/
def mbAtlasRead : MbCommand :=
  { onDev (form 0x704 [5])
      (fun c => [[(8, 0)], if c.b 1 0 then [(3, 0)] else fullWord, fullWord, fullWord, [(27, 0)]])
      (fun c => faultsOf [(1, c.b 1 0 && (c.f 1 8 1 == 0 || decide (5 < c.f 1 8 1)))]) fun d c =>
    d.check (firstFail [(!d.atlas.isOpen, failPlain eState),
          (decide (d.cap.window < c.f 5 27 0), { failAt eParam 5 with resp := d.atlas.range })] <|>
        d.partsFault [partCapture]) fun e =>
      match e.atlas.locate c with
      | .inr code => (e, .fail { code := code, index := 2, detail := 0, resp := e.atlas.range })
      | .inl sh =>
        let n := min (c.f 5 27 0) (sh.size - (c.w 4).toNat)
        let r : AtlasRead := ⟨c.slot, sh.seq, (c.w 4).toNat, n, 0, none⟩
        if n = 0 then (e, .ok (r.words sh ++ [0]))
        else e.check (e.partsFault ((e.atlas.readChannels r).map partAtlas)) fun x =>
          (x.onAtlas fun a => { a with reads := a.reads ++ [r] }, .running) with
    faultResp := fun d => d.atlas.range }

def execAtlasRead (slot : SlotId) (s : State) : Host.Outcome State Fault Refusal := done (s.accept slot mbAtlasRead)

/-- The words of the next codeword reach the read window; all ones for one that is uncorrectable, whose block `b` then
retires. -/
def Dev.readCodeword (d : Dev) (r : AtlasRead) (s : Sheet) (b : Nat) (bad : Bool) : Dev :=
  let first := r.offset + r.copied
  let pos := s.place + first
  let n := min (r.count - r.copied) ((pos / 910 + 1) * 910 - pos)
  let ws := if bad then List.replicate n (w36 (2 ^ 36 - 1)) else (s.words.drop first).take n
  let base := (d.cap.rbuf.map fun x => x.1 * pageSize).getD 0
  let u := { r with copied := r.copied + n, bad := if bad then some (r.bad.getD first) else r.bad }
  let d1 := d.onCap fun c => c.put (Mem.writes c.mem (base + r.copied) ws) (span (base + r.copied) ws.length)
  let d2 := d1.when bad fun e => e.loseCodeword (pos / 910) b
  if u.count ≤ u.copied then (d2.onAtlas fun a => { a with reads := a.reads.filter fun x => x.slot != r.slot }).finishRead u s
  else (d2.onAtlas fun a => { a with reads := a.reads.map fun x => if x.slot == r.slot then u else x }).progress r.slot
    (1000 * u.copied / (max 1 u.count))

/-- What the next codeword of a read needs: its sheet, its number in the stream and the block that holds it. -/
def Atlas.nextOf (a : Atlas) (r : AtlasRead) : Option (Sheet × Nat × Nat) :=
  match a.sheets.find? fun s => s.seq == r.seq with
  | none => none
  | some s =>
    let pos := s.place + r.offset + r.copied
    (a.blockOf (pos / 910)).map fun b => (s, pos / 910, b)

/-- A read of recovery on a channel: the copies of the newest checkpoint, then the stream from it on. Of two copies of a
codeword the older is read first, and the other where it does not check (R288). -/
def Dev.recover (d : Dev) (o : AtlasOpening) (ch : Nat) (q : ReadQuality) (found : CodewordFound) : Dev :=
  let a := d.atlas
  let at_ := fun (o : AtlasOpening) => d.onAtlas fun x => { x with opening := some o }
  match o.at_ with
  | none =>
    match o.copies with
    | [] => at_ { o with at_ := some a.kept }
    | c :: rest =>
      if c.1 ≠ ch then d
      else if q = .uncorrectable then at_ { o with copies := rest, at_ := if rest.isEmpty then some a.kept else none }
      else at_ { o with copies := [], at_ := some c.2 }
  | some pos =>
    match a.goodHolders (pos / 910) with
    | [] => d.finishOpen o.slot pos
    | b :: others =>
      if a.channelOf b ≠ ch then d
      else if q = .uncorrectable ∨ found = .foreign then
        (if others.isEmpty then d.finishOpen o.slot pos
         else d.onAtlas fun x => { x with badCopies := (b, pos / 910) :: x.badCopies })
      else match found with
        | .badSheet k => d.finishOpen o.slot (((a.sheets.find? fun s => s.seq == k).map Sheet.place).getD pos)
        | _ =>
          let e := at_ { o with at_ := some (pos + 910) }
          let e := match o.slot with
            | some s => e.progress s (1000 * (pos + 910 - a.kept) / max 1 (a.programmed - a.kept))
            | none => e
          e.when (ReadQuality.weak q) fun y => y.onAtlas fun z => z.addMove b .refresh

/-- FLASH_READ_DONE: recovery first, then the oldest ATLAS_READ that waits for a codeword on the channel. A weak codeword makes
its block due for a refresh, whatever read it (R285). -/
def Dev.flashRead (d : Dev) (ch : Nat) (q : ReadQuality) (found : CodewordFound) : Dev :=
  if !d.partUp (partAtlas ch) then d
  else
    let d1 := d.countRead ch q
    let a := d1.atlas
    match a.opening with
    | some o => d1.recover o ch q found
    | none =>
      match a.reads.find? fun r => match a.nextOf r with
        | some x => a.channelOf x.2.2 == ch
        | none => false with
      | none => d1
      | some r =>
        match a.nextOf r with
        | some x =>
          let e := d1.readCodeword r x.1 x.2.2 (q == .uncorrectable || decide (x.2.1 ∈ a.lost))
          ((e.when (ReadQuality.weak q) fun y => y.onAtlas fun z => z.addMove x.2.2 .refresh)).runFlash
        | none => d1

def execFlashReadDone (channel : Nat) (quality : ReadQuality) (found : CodewordFound) (s : State) :
    Host.Outcome State Fault Refusal := doneDev s (s.dev.flashRead channel quality found)

/-! ## ATLAS_FENCE (R279) -/

/-- The last sheet padded to its page's end. -/
def Atlas.padLast (a : Atlas) : Atlas :=
  match a.sheets.getLast? with
  | some s =>
    if a.waits s then
      { a with sheets := a.sheets.dropLast ++ [{ s with pad := true }], laid := a.pageEnd a.laid }
    else a
  | none => a

/-- Every sheet up to S is programmed. -/
def Atlas.fenced (a : Atlas) (s : Nat) : Bool := a.sheets.all fun x => decide (s < x.seq) || !a.waits x

/-- Fences whose sheets are programmed complete, in order, each with a checkpoint. -/
def Dev.fenceDone (d : Dev) : Nat → Dev
  | 0 => d
  | n + 1 =>
    match d.atlas.fences with
    | [] => d
    | f :: rest =>
      if d.atlas.fenced f.2 then
        ((d.onAtlas fun a => { a.mark with fences := rest, lastFenced := f.2 }).reply f.1
          (.ok (words72 f.2))).fenceDone n
      else d

def mbAtlasFence : MbCommand :=
  onDev (form 0x705 [0]) (fun _ => []) (fun _ => []) fun d c =>
    let a := d.atlas
    let top := a.newest
    if !a.isOpen then (d, .fail (failPlain eState))
    else if a.powerHeld then (d, .fail (failPlain eHoldup))
    else if a.dropSinceFence then
      (d.onAtlas fun x => { x with dropSinceFence := false },
        .fail { code := eMediaFull, index := 0xFFF, detail := 0, resp := words72 top })
    else if a.fences.isEmpty && a.fenced top then
      (d.onAtlas fun x => { x.mark with lastFenced := top }, .ok (words72 top))
    else ((d.onAtlas fun x => { x.padLast with fences := x.fences ++ [(c.slot, top)] }).runFlash, .running)

def execAtlasFence (slot : SlotId) (s : State) : Host.Outcome State Fault Refusal := done (s.accept slot mbAtlasFence)

/-! ## Programs and erases (R281 to R283) -/

/-- An erase on a channel ends: of a format, or of the first block on it that waits for one. -/
def Dev.eraseDone (d : Dev) (ch : Nat) (good : Bool) : Dev :=
  let a := d.atlas
  let mine := fun (n : Nat) => a.channelOf n == ch
  let ended := fun (n : Nat) => if good then d.erased n else d.retireBlock n
  match a.formatting with
  | some f =>
    match f.left.find? mine with
    | none => d
    | some n =>
      let left := f.left.filter (· != n)
      let d1 := (ended n).onAtlas fun x => { x with formatting := some { f with left := left } }
      let all := a.blocks.countP fun b => !b.factory
      if left = [] then d1.finishFormat f.slot else d1.progress f.slot (1000 * (all - left.length) / all)
  | none =>
    match a.blocks.zipIdx.find? fun x => x.1.erasing && mine x.2 with
    | none => d
    | some x => (ended x.2).runFlash

/-- PROGRESS of a fence on the sheets up to `top`: what is programmed of the stream from the first sheet after the last fence to
the end of `top`, in permille (R298, log 104). -/
def Atlas.fencePermille (a : Atlas) (top : Nat) : Nat :=
  let mine := a.sheets.filter fun s => decide (a.lastFenced < s.seq ∧ s.seq ≤ top)
  let first := (mine.head?.map Sheet.place).getD 0
  let last := (mine.getLast?.map Sheet.stop).getD 0
  1000 * (min last a.programmed - first) / max 1 (last - first)

def Dev.fenceProgress (d : Dev) : Dev :=
  d.each d.atlas.fences fun e f => e.progress f.1 (d.atlas.fencePermille f.2)

/-- A page program on a channel ends: the one in progress longest. A failed one is made again, and its block retires. -/
def Dev.programDone (d : Dev) (ch : Nat) (good : Bool) : Dev :=
  match d.atlas.running ch with
  | none => d
  | some x =>
    if good then
      let d1 := d.onAtlas fun a => a.pageDone x
      (d1.fenceDone d1.atlas.fences.length).fenceProgress.runFlash
    else
      (((d.onAtlas fun a => a.pageAgain x).onAtlas fun a => if x.copy then a.restartMove x.block else a).retireBlock
        x.block).runFlash

/-- FLASH_PROGRAM_DONE. -/
def Dev.flashProgram (d : Dev) (ch : Nat) (erase good : Bool) : Dev :=
  if !d.partUp (partAtlas ch) then d else if erase then d.eraseDone ch good else d.programDone ch good

def execFlashProgramDone (channel : Nat) (erase good : Bool) (s : State) : Host.Outcome State Fault Refusal :=
  doneDev s (s.dev.flashProgram channel erase good)

/-! ## ATLAS_APPEND_POLICY (R274) -/

def Cmd.atlasPolicy (c : Cmd) : AtlasPolicy :=
  { rdMode := c.f 1 1 0, saveFrozen := c.b 1 2, stopWhenFull := c.b 1 3, mapSave := BitVec.ofNat 16 (c.f 1 19 4),
    itemLo := c.f 2 35 26, itemHi := c.f 2 25 16, rdFrames := c.f 2 15 0 + 1 }

def mbAtlasAppendPolicy : MbCommand :=
  onDev (form 0x703 [2]) (fun _ => [[(19, 0)], fullWord])
    (fun c => faultsOf [(1, c.f 1 1 0 == 3), (2, decide (c.f 2 25 16 < c.f 2 35 26))]) fun d c =>
    if !d.atlas.isOpen then (d, .fail (failPlain eState))
    else (d.onAtlas fun a => { a with pendingPolicy := some (d.nextTick, c.atlasPolicy) }, .deferred d.nextTick [])

def execAtlasAppendPolicy (slot : SlotId) (s : State) : Host.Outcome State Fault Refusal := done (s.accept slot mbAtlasAppendPolicy)

/-! ## ATLAS_SCRUB and the retention pass (R285) -/

def mbAtlasScrub : MbCommand :=
  onDev (form 0x707 [1]) (fun _ => [[(0, 0)]]) (fun _ => []) fun d c =>
    if !d.atlas.isOpen then (d, .fail (failPlain eState))
    else if c.b 1 0 then (d, .ok [w36 d.atlas.oldestHours])
    else if d.atlas.heldBlocks = [] then (d, .ok [0])
    else d.check (d.partsFault (d.atlas.heldChannels.map partAtlas)) fun e =>
      (e.onAtlas fun a => a.startScrub (some c.slot), .running)

def execAtlasScrub (slot : SlotId) (s : State) : Host.Outcome State Fault Refusal := done (s.accept slot mbAtlasScrub)

/-- One codeword of a block as a retention pass reads it, the i-th. -/
def Dev.scrubCodeword (d : Dev) (block : Nat) (x : ReadQuality × Nat) : Dev :=
  let a := d.atlas
  let d1 := d.countRead (a.channelOf block) x.1
  match (a.block block).pages[x.2 / a.pageCodewords]? with
  | some p =>
    let n := p * a.pageCodewords + x.2 % a.pageCodewords
    d1.when (x.1 == .uncorrectable && decide ((block, n) ∉ a.badCopies)) fun e => e.loseCodeword n block
  | none => d1

/-- A block read: its codewords are counted, and a weak one makes it due for a refresh. -/
def Dev.scrubBlock (d : Dev) (block : Nat) (codewords : List ReadQuality) : Dev :=
  if !(d.atlas.block block).holds || !d.partUp (partAtlas (d.atlas.channelOf block)) then d
  else
    let d1 := d.each codewords.zipIdx fun e x => e.scrubCodeword block x
    d1.onAtlas fun a =>
      let b := { a.updBlock block fun b => { b with readAt := a.hour } with
                 scrubs := a.scrubs.map fun s => { s with left := s.left.filter (· != block) } }
      if codewords.any ReadQuality.weak then b.addMove block .refresh else b

/-- Blocks that have held data for 180 days since their last program are due for a refresh. -/
def Atlas.refreshOld (a : Atlas) : Atlas :=
  (a.blocks.zipIdx.filter fun x => x.1.holds && !x.1.bad && decide (4320 ≤ a.hour - x.1.writtenAt)).foldl
    (fun y x => y.addMove x.2 .refresh) a

/-- A full pass reports its progress, or ends at the next read once it is cancelled. -/
def Dev.scrubReply (d : Dev) (r : ScrubRun) : Dev :=
  match r.slot with
  | none => d
  | some s =>
    if r.cancelled then d.reply s (.fail (failPlain eCancelled))
    else d.progress s (1000 * (r.total - r.left.length) / r.total)

/-- The channels with a block unread for more than 30 days. -/
def Atlas.overdue (a : Atlas) : List Nat :=
  (List.range 8).filter fun ch => a.blocks.zipIdx.any fun x =>
    x.1.holds && decide (720 < a.hour - x.1.readAt) && a.channelOf x.2 == ch

/-- SCRUB_PASS at an hour of firmware's clock: a block is read, blocks that need it are refreshed, and passes go on. Every
channel with an overdue block warns (R290). -/
def Dev.scrubPass (d : Dev) (hour block : Nat) (codewords : List ReadQuality) : Dev :=
  if !d.atlas.isOpen then d
  else
    let d1 := d.onAtlas fun a => { a with hour := max a.hour hour }
    let d2 := (d1.scrubBlock block codewords).onAtlas Atlas.refreshOld
    let d3 := d2.each d2.atlas.overdue Dev.mediaWarn
    let d4 := d3.each d3.atlas.scrubs Dev.scrubReply
    (d4.onAtlas fun a => { a with scrubs := a.scrubs.filter fun s => !s.cancelled }).runFlash

def execScrubPass (hour block : Nat) (codewords : List ReadQuality) (s : State) : Host.Outcome State Fault Refusal :=
  doneDev s (s.dev.scrubPass hour block codewords)

/-! ## Power failure (R287) -/

/-- The page in progress that is not yet full is closed with padding. -/
def Atlas.closePage (a : Atlas) : Atlas := if a.laid < a.nextPage * a.pageWords then a.padLast else a

/-- PWR_FAIL_N falls: no new program starts, the page in progress is closed, fences fail, source 369. -/
def State.pwrFail (s : State) : State :=
  let slots := s.dev.atlas.fences.map fun f => f.1
  let d := s.dev.onAtlas fun a => { a.closePage with powerHeld := true, fences := [] }
  { s with dev := (d.each slots fun e f => e.reply f (.fail (failPlain eHoldup))).level 369 true,
           watch := { s.watch with pwrFailN := false } }

def execPwrFail (s : State) : Host.Outcome State Fault Refusal := done s.pwrFail

/-- PWR_FAIL_N has been high again for 10 ms: programming resumes. -/
def State.pwrFailClear (s : State) : State :=
  { s with dev := (s.dev.onAtlas fun a => { a with powerHeld := false }).runFlash.level 369 false,
           watch := { s.watch with pwrFailN := true } }

def execPwrFailClear (s : State) : Host.Outcome State Fault Refusal := done s.pwrFailClear

/-- The journal closes as power or the main part goes: programs in progress do not complete, and sheets of which nothing is
programmed are lost. -/
def Atlas.close (a : Atlas) : Atlas :=
  let b := a.inflight.foldr (fun x y => y.pageAgain x) a
  let gone := a.sheets.filter fun s => a.programmed ≤ s.place
  { b with st := .closed, seqNext := ((gone.head?).map Sheet.seq).getD a.seqNext, policy := AtlasPolicy.reset, pendingPolicy := none, collecting := [], gap := none, fences := [],
           reads := [], opening := none, formatting := none, scrubs := [], rbufPages := 256, ahead := [], rewrites := [],
           ddr := [], initialised := false,
           sheets := a.sheets.filter fun s => s.place < a.programmed,
           cleanClose := if a.isOpen then decide (a.laid ≤ a.programmed) && a.collecting.isEmpty else a.cleanClose }

/-! ## ATLAS_HEALTH (R290, R330) -/

def AtlasState.code (s : AtlasState) : Nat :=
  match s with
  | .closed => 0
  | .opening => 1
  | .open => 2
  | .readOnly => 3
  | .full => 4

/-- GEOMETRY. -/
def Atlas.geometry (a : Atlas) : Word :=
  let t := a.targets.head?
  word [(35, 30, a.targets.length), (29, 28, b2n ((t.map fun x => x.pageKiB).getD 8 == 16)), (27, 25, (t.map fun x => x.planes).getD 0),
    (19, 0, (t.map fun x => x.blocksPerPlane).getD 0)]

/-- MiB of a number of pages. -/
def Atlas.pagesMiB (a : Atlas) (n : Nat) : Nat := n * a.pageCodewords / 256

/-- Page 0. -/
def Atlas.healthJournal (a : Atlas) : List Word :=
  [word [(35, 32, a.st.code), (31, 0, a.formatId.toNat)], a.geometry, w36 a.usableMiB,
   w36 (a.usableMiB - ceilDiv (a.laid - a.kept) (910 * 256)), w36 (a.spareBlocks * a.blockKiB / 1024), w36 a.lifeUsed] ++
  words72 (wordsMiB a.appended) ++ words72 (a.pagesMiB a.pagesDone) ++
  words72 a.oldest ++ words72 a.newest ++ words72 a.lastFenced ++
  [w36 a.dropped, w36 a.gaps, w36 a.truncatedSheets, w36 a.refreshed, w36 a.oldestHours,
   w36 (a.blocks.countP Block.factory), w36 (a.blocks.countP Block.grown)]

/-- Page 1 for one target. -/
def Atlas.healthTarget (a : Atlas) (t : Nat) : List Word :=
  let l := a.blocks.filter fun b => b.target == t
  let e := l.map Block.erases
  [w36 (l.countP Block.factory), w36 (l.countP Block.grown), w36 (if l = [] then 0 else sumN e / l.length), w36 (maxN e)]

def mbAtlasHealth : MbCommand :=
  onDev (form 0x706 [1]) (fun _ => [[(6, 0)]])
    (fun c => faultsOf [(1, c.f 1 1 0 == 3 || (c.f 1 1 0 == 2 && decide (7 < c.f 1 6 2)))]) fun d c =>
    let a := d.atlas
    let first := c.f 1 6 2
    let resp :=
      if c.f 1 1 0 = 0 then a.healthJournal
      else if c.f 1 1 0 = 1 then (range2 first (min 31 (first + 15))).flatMap a.healthTarget
      else (range2 first 7).flatMap fun ch => (a.codewords.getD ch []).flatMap words72
    (d, .ok resp)

def execAtlasHealth (slot : SlotId) (s : State) : Host.Outcome State Fault Refusal := done (s.accept slot mbAtlasHealth)

end Sys2Proof.Machine
end

