-- ==== Sys2Proof/Machine/RelayCommands.lean ====
section
/-! DEFINITION. Host accesses to the Event Relay and the events that reach it (14). -/

namespace Sys2Proof.Machine

/-- A BAR0 access reaches its register: the main part is out of reset and HOST is up (R380). -/
def State.open (s : State) : Bool := s.watch.perstN && s.dev.partUp partHost

/-- A W1C register (R25): the bits after a write of `value` in the cycle in which hardware sets `hw`. -/
def w1c {n : Nat} (bits value hw : BitVec n) : BitVec n := (bits &&& ~~~value) ||| hw

/-- The collisions that the write meets, one for each bit cleared and set in the same cycle. -/
def collisions {n : Nat} (value hw : BitVec n) : Nat :=
  ((List.range n).filter fun i => (value &&& hw).getLsbD i).length

/-- A lane of ER_PEND, ER_MASK or the owners: bit i is what `f` says of source 32k + i. -/
def Relay.gather (r : Relay) (k : Nat) (f : Source → Bool) : Lane :=
  BitVec.ofNat 64 (listMask ((List.range 32).filter fun i => f (r.source (32 * k + i))))

/-- Every source of group k changed by its bit of a lane. -/
def Relay.scatter (r : Relay) (k : Nat) (v : Lane) (f : Source → Bool → Source) : Relay :=
  { r with sources := r.sources.mapNum fun n x => if n / 32 = k then f x (bit v (n % 32)) else x }

/-- ER_SRC_CFG[n] as the host writes it (R336, R337). -/
def Source.hostConfig (x : Source) (v : Lane) : Source :=
  if x.cfg.hostOwned then
    { x with cfg :=
      { prio := fld v 3 0
        sense := if fld v 6 4 < 6 then BitVec.ofNat 3 (fld v 6 4) else x.cfg.sense
        targets := BitVec.ofNat 5 (16 * fld v 12 12)
        wake := bit v 13
        hostOwned := true
        lowest := bit v 15 } }
  else x

def execErSrcCfgWrite (n : Nat) (value : Lane) (s : State) : Host.Outcome State Fault Refusal :=
  done (if s.open then { s with relay := s.relay.upd n fun x => x.hostConfig value } else s)

/-- ER_PEND as the host writes it (R339, R340): a 1 raises a host-owned source, a 0 clears it and counts a lost
event if the bit was 0 at the last read, but not where the source is a level one that pends again at once. -/
def Source.hostPend (x : Source) (on seen : Bool) : Source :=
  if !x.cfg.hostOwned then x
  else if on then { x with pend := true }
  else if x.pend then
    { x with pend := false, byLevel := false, lost := if seen || levelMet x.cfg.sense x.level then x.lost else clampU 8 (x.lost + 1) }
  else x

/-- The write to ER_PEND[k] against its shadow. -/
def Relay.pendWrite (r : Relay) (k : Nat) (v : Lane) : Relay :=
  let shadow := r.shadow.getD k 0
  { r with sources := r.sources.mapNum fun n x =>
      if n / 32 = k then x.hostPend (bit v (n % 32)) (bit shadow (n % 32)) else x }

def execErPendWrite (k : Nat) (value : Lane) (s : State) : Host.Outcome State Fault Refusal :=
  done (if s.open then { s with relay := s.relay.pendWrite k value } else s)

/-- The host reads ER_PEND[k], and the value is kept as its shadow (R340). -/
def State.pendRead (s : State) (k : Nat) : State :=
  let v := s.relay.gather k fun x => x.pend
  { s with relay := { s.relay with shadow := s.relay.shadow.set k v },
           dev := s.dev.onHost fun h => { h with readValue := v } }

def execErPendRead (k : Nat) (s : State) : Host.Outcome State Fault Refusal :=
  done (if s.open then s.pendRead k else s)

/-- ER_LOST_CLEAR: one counter or all, of host-owned sources. -/
def Relay.lostClear (r : Relay) (v : Lane) : Relay :=
  { r with sources := r.sources.mapNum fun n x =>
      if x.cfg.hostOwned && (bit v 9 || fld v 8 0 == n) then { x with lost := 0 } else x }

def execErLostClear (value : Lane) (s : State) : Host.Outcome State Fault Refusal :=
  done (if s.open then { s with relay := s.relay.lostClear value } else s)

/-- The host reads ER_CLAIM_H (R346). -/
def State.claimH (s : State) : State :=
  let r := s.relay.claim (linkAsleep s.dev.host.link)
  { s with relay := r.2, dev := s.dev.onHost fun h => { h with readValue := r.1 } }

def execErClaimH (s : State) : Host.Outcome State Fault Refusal :=
  done (if s.open then s.claimH else s)

/-- FLUSH completes every entry of the stack. -/
def State.flushH (s : State) : State := { s with relay := { s.relay with stack := [] } }

/-- An order fault is told: RELAY_FAULT, and source 371. -/
def Dev.relayFault (d : Dev) : Dev := (d.setFlag flagRelayFault).pulse 371

/-- A completion of one source (R347, R348). -/
def State.completeOne (s : State) (n : Nat) : State :=
  let r := s.relay.complete n
  { s with relay := r.1, dev := s.dev.when (!r.2) Dev.relayFault }

/-- The host writes ER_COMPLETE_H: with FLUSH, SOURCE is not looked at. -/
def State.completeH (s : State) (v : Lane) : State := if bit v 16 then s.flushH else s.completeOne (fld v 8 0)

def execErCompleteH (value : Lane) (s : State) : Host.Outcome State Fault Refusal :=
  done (if s.open then s.completeH value else s)

def execErCompleteFlush (s : State) : Host.Outcome State Fault Refusal :=
  done (if s.open then s.flushH else s)

/-- ER_FAULT bits as a vector. -/
def Relay.faultBits (r : Relay) : BitVec 3 :=
  BitVec.ofNat 3 (b2n r.order + 2 * b2n r.unclaimed + 4 * b2n r.fwOrder)

def Relay.setFaultBits (r : Relay) (b : BitVec 3) : Relay :=
  { r with order := bit b 0, unclaimed := bit b 1, fwOrder := bit b 2 }

/-- An order fault that comes in the cycle of a write to ER_FAULT: of H, for which bits 12 to 4 of `hw` name the source, it
is counted, and the first one since both bits were clear records the stack. -/
def Relay.faultInCycle (r : Relay) (hw : Lane) : Relay :=
  if bit hw 0 || bit hw 1 then
    let q := { r with faultCount := clampU 8 (r.faultCount + 1) }
    if !r.order && !r.unclaimed then
      { q with badSource := fld hw 12 4, snapDepth := r.stack.length, snap := r.snapshot } else q
  else r

/-- The host writes ER_FAULT (R348, R25). -/
def Relay.faultWrite (r : Relay) (value hw : Lane) : Relay :=
  let v := value.setWidth 3
  let h := hw.setWidth 3
  let q := r.faultInCycle hw
  { (q.setFaultBits (w1c r.faultBits v h)) with
    faultAgain := r.faultAgain + BitVec.ofNat 16 (collisions v h) }

/-- A fault of the write's cycle, FW_ORDER of a Compass target among them, is told as any other. -/
def State.faultWrite (s : State) (value hw : Lane) : State :=
  { s with relay := s.relay.faultWrite value hw, dev := s.dev.when (hw.setWidth 3 != (0 : BitVec 3)) Dev.relayFault }

def execErFaultWrite (value hw : Lane) (s : State) : Host.Outcome State Fault Refusal :=
  done (if s.open then s.faultWrite value hw else s)

/-- A write to ER_WAKE, over PCIe or SMBus (R349, R25): bits that hardware sets in that cycle rise or stay. -/
def Watch.wakeWrite (w : Watch) (value hw : Lane) : Watch :=
  let v := value.setWidth 32
  let h := hw.setWidth 32
  let rise := h &&& ~~~w.seen
  { w with seen := w1c w.seen v h, alert := w.alert || rise != 0,
           wakeAgain := w.wakeAgain + BitVec.ofNat 16 (collisions v h) }

def execErWakeWrite (value hw : Lane) (s : State) : Host.Outcome State Fault Refusal :=
  done (if s.open then { s with watch := s.watch.wakeWrite value hw } else s)

/-- EVENT_SOURCE_ASSERT: an input meets its sense; for a level source `level` is its new level. -/
def State.assertSource (s : State) (n : Nat) (level : Bool) : State :=
  { s with dev := if isPulseSource n then s.dev.pulse n else s.dev.level n level }

def execEventSourceAssert (source : Nat) (level : Bool) (s : State) : Host.Outcome State Fault Refusal :=
  done (s.assertSource source level)

/-- The widest link that the straps let the Naset advertise (R291, R398). -/
def Watch.linkWidth (w : Watch) : Nat :=
  if w.straps.peWidth = 0 then 8 else if w.straps.peWidth = 1 then 4 else 1

/-- The lanes of a link that has trained: x8, x4 or x1 within a width. -/
def trainedLanes (width lanes : Nat) : Nat :=
  if 8 ≤ min width lanes then 8 else if 4 ≤ min width lanes then 4 else if 1 ≤ lanes then 1 else 0

/-- The function's state as the host and the link leave it: its width is within what is advertised. -/
def State.linkTo (s : State) (link : LinkState) : State :=
  { s with dev := s.dev.onHost fun h => { h with link := { link with
      lanes := if link.linkUp then trainedLanes s.watch.linkWidth link.lanes else 0 } } }

/-- HOST_SLEEP_CHANGE: the function's state decides whether H sleeps and whether requests may go (R341, R292). -/
def execHostSleepChange (link : LinkState) (s : State) : Host.Outcome State Fault Refusal :=
  done (if s.watch.perstN then s.linkTo link else s)

/-- LINK_EVENT: source 342. -/
def execLinkEvent (_e : PcieEvent) (s : State) : Host.Outcome State Fault Refusal :=
  doneDev s (s.dev.pulse 342)

end Sys2Proof.Machine
end

