-- ==== Sys2Proof/Machine/Monitors.lean ====
section
/-! DEFINITION. The Watch monitors and their registers (02 R53 to R57), SET_MONITOR (R334), and the SMBus
responder (R351). -/

namespace Sys2Proof.Machine

def Watch.updMonitor (w : Watch) (m : Nat) (f : Monitor → Monitor) : Watch :=
  { w with monitors := w.monitors.modify m f }

/-- Monitor 15 is borrowed, or in the response time afterwards (R56). -/
def Watch.borrowed (w : Watch) (m : Nat) : Bool := m == 15 && (w.holdup.isSome || w.borrowTail != 0)

/-- The latches take the present report (R55). -/
def Monitor.latch (x : Monitor) : Monitor :=
  let lo := x.state == 1
  let hi := x.state == 2
  if x.period then { x with belowNow := x.belowNow || lo, aboveNow := x.aboveNow || hi }
  else { x with belowSeen := x.belowSeen || lo, aboveSeen := x.aboveSeen || hi }

/-- The monitor now reports 0 inside, 1 BELOW or 2 ABOVE. -/
def Monitor.report (x : Monitor) (r : Nat) : Monitor := { x with state := r }.latch

/-- A boundary of the latch period (R55): the last period's values show, and the latches start afresh. -/
def Monitor.periodEnd (x : Monitor) : Monitor :=
  if x.period then
    { x with belowSeen := x.belowNow, aboveSeen := x.aboveNow, belowNow := x.state == 1, aboveNow := x.state == 2 }
  else x

def execLatchPeriodEnd (m : Nat) (s : State) : Host.Outcome State Fault Refusal :=
  done (if s.watch.borrowed m then s else { s with watch := s.watch.updMonitor m Monitor.periodEnd })

/-- The write of WM_LATCH to one monitor: only a STICKY one is cleared, and a report that lasts latches again. -/
def Monitor.latchWrite (x : Monitor) (clearLo clearHi hwLo hwHi : Bool) : Monitor :=
  if x.period then x
  else { x with belowSeen := (x.belowSeen && !clearLo) || hwLo, aboveSeen := (x.aboveSeen && !clearHi) || hwHi }.latch

/-- The bits of WM_LATCH that a write can clear: those of STICKY monitors, whose latches a borrowing does not hold. -/
def Watch.stickyMask (w : Watch) : BitVec 32 :=
  BitVec.ofNat 32 (listMask ((List.range 32).filter fun i => !(w.monitor (i % 16)).period && !w.borrowed (i % 16)))

/-- A write to WM_LATCH, over PCIe or SMBus (R55, R25). -/
def Watch.latchWrite (w : Watch) (value hw : Lane) : Watch :=
  let v := value.setWidth 32 &&& w.stickyMask
  let h := hw.setWidth 32 &&& w.stickyMask
  { w with
    monitors := w.monitors.mapNum fun m x =>
      if w.borrowed m then x else x.latchWrite (bit v m) (bit v (16 + m)) (bit h m) (bit h (16 + m))
    latchAgain := w.latchAgain + BitVec.ofNat 16 (collisions v h) }

def execWmLatchWrite (value hw : Lane) (s : State) : Host.Outcome State Fault Refusal :=
  done (if s.open then { s with watch := s.watch.latchWrite value hw } else s)

/-! ## SET_MONITOR (R334) -/

/-- A new latch mode: a report that lasts is latched under it, and STICKY keeps what PERIOD had latched (R55). After a change to
PERIOD, WM_LATCH shows the STICKY bits up to the first boundary, and writes to them are ignored, of which R55 says nothing
(DESIGN CHOICE, log 159). -/
def Monitor.relatch (x : Monitor) (period : Bool) : Monitor :=
  if x.period = period then x
  else if period then { x with period := true, belowNow := x.state == 1, aboveNow := x.state == 2 }
  else { x with period := false, belowSeen := x.belowSeen || x.belowNow, aboveSeen := x.aboveSeen || x.aboveNow }.latch

/-- A setting takes effect: a change of mode, threshold or enable leaves the monitor not evaluated (R54). -/
def Monitor.set (x : Monitor) (c : MonitorCfg) : Monitor :=
  let z := { x.relatch c.period with enable := c.enable, mode := c.mode, lo := c.lo, hi := c.hi, j := c.j }
  if x.enable = c.enable ∧ x.mode = c.mode ∧ x.lo = c.lo ∧ x.hi = c.hi then z else { z with state := 3 }

/-- The source of a monitor that is not evaluated is not asserted. -/
def State.setMonitor (s : State) (m : Nat) (c : MonitorCfg) : State :=
  if s.watch.borrowed m then
    { s with watch := { s.watch with laterMonitor := some c } }
  else
    let w := s.watch.updMonitor m fun x => x.set c
    { s with watch := w, dev := s.dev.when ((w.monitor m).state == 3) fun d => d.level (352 + m) false }

/-- The response time after a borrowing is over, and a SET_MONITOR 15 that waited applies (R334). -/
def State.endTail (s : State) : State :=
  let s1 := { s with watch := { s.watch with borrowTail := 0, laterMonitor := none } }
  match s.watch.laterMonitor with
  | some c => s1.setMonitor 15 c
  | none => s1

/-- A frame of so many coarse cycles ends in that response time. -/
def State.tailTick (s : State) (length : Nat) : State :=
  if s.watch.borrowTail = 0 then s
  else if s.watch.borrowTail ≤ length then s.endTail
  else { s with watch := { s.watch with borrowTail := s.watch.borrowTail - length } }

/-- MONITOR_EXCURSION (R54): the report, its latches and source 352 + m. A disabled or borrowed monitor reports nothing;
the first report of monitor 15 after a borrowing ends its response time, unless a SET_MONITOR waits for that end. -/
def State.monitorReports (s : State) (m r : Nat) : State :=
  if s.watch.powered && (s.watch.monitor m).enable && !(m == 15 && s.watch.holdup.isSome) then
    let s1 := if s.watch.borrowed m then s.endTail else s
    if s.watch.borrowed m && s.watch.laterMonitor.isSome then s1
    else { s1 with watch := s1.watch.updMonitor m fun x => x.report r, dev := s1.dev.level (352 + m) (r != 0) }
  else s

/-- The fields of SET_MONITOR. -/
def Cmd.monitorCfg (c : Cmd) : MonitorCfg :=
  { enable := c.b 1 31, mode := c.f 1 30 29, lo := c.f 2 11 0, hi := c.f 2 27 16, period := c.b 1 28,
    j := c.f 1 27 23 }

def setMonitorForm : Form := form 0xF02 [2]

def mbSetMonitor : MbCommand :=
  onState setMonitorForm (fun _ => [[(35, 23)], [(27, 16), (11, 0)]])
    (fun c => faultsOf [(1, c.f 1 27 23 < 10 || 24 < c.f 1 27 23), (2, c.f 2 27 16 < c.f 2 11 0)])
    fun t c => (t.setMonitor (c.f 1 35 32) c.monitorCfg, .ok [])

def execSetMonitor (slot : SlotId) (s : State) : Host.Outcome State Fault Refusal := done (s.accept slot mbSetMonitor)

/-! ## The WM registers (R57) -/

def packPairs (l : List Nat) : Nat := l.foldr (fun x acc => x % 4 + 4 * acc) 0

def Watch.wmState (w : Watch) : Lane :=
  BitVec.ofNat 64 (packPairs ((List.range 16).map fun m =>
    let x := w.monitor m
    if w.borrowed m || !x.enable then 3 else x.state))

def Watch.wmLatch (w : Watch) : Lane :=
  BitVec.ofNat 64 (listMask (((List.range 16).filter fun m => (w.monitor m).belowSeen) ++
    ((List.range 16).filter fun m => (w.monitor m).aboveSeen).map (· + 16)))

def Watch.wmLatchAgain (w : Watch) : Lane := w.latchAgain.setWidth 64

/-- The settings shown are the host's, those of monitor 15 too while it is borrowed, of which R56 says only what WM_STATE, BORROWED
and the latches show (DESIGN CHOICE, log 160). -/
def Watch.wmMode (w : Watch) : Lane :=
  lane [(31, 0, packPairs ((List.range 16).map fun m => (w.monitor m).mode)),
    (47, 32, listMask ((List.range 16).filter fun m => (w.monitor m).enable)), (48, 48, b2n (w.borrowed 15))]

def Watch.wmCfg (w : Watch) (m : Nat) : Lane :=
  let x := w.monitor m
  lane [(11, 0, x.lo), (27, 16, x.hi), (28, 28, b2n x.period), (33, 29, x.j)]

/-! ## ER_WAKE, ER_WATCH (R349) -/

def Watch.erWake (w : Watch) : Lane :=
  lane [(31, 0, w.seen.toNat), (47, 32, w.wakeAgain.toNat), (48, 48, b2n w.alert), (49, 49, b2n w.hWake)]

def WatchEntry.lane (e : WatchEntry) : Lane :=
  Machine.lane [(8, 0, e.source), (11, 9, e.sense.toNat), (12, 12, b2n e.enable)]

/-- An ER_WATCH entry as written; a reserved SENSE leaves SENSE unchanged. -/
def WatchEntry.write (e : WatchEntry) (v : Lane) : WatchEntry :=
  { source := fld v 8 0, sense := if fld v 11 9 < 6 then BitVec.ofNat 3 (fld v 11 9) else e.sense, enable := bit v 12 }

def Watch.entryWrite (w : Watch) (i : Nat) (v : Lane) : Watch :=
  { w with entries := w.entries.modify i fun e => e.write v }

/-! ## The operating state's codes (R311) -/

def OpState.code (o : OpState) : Nat :=
  match o with
  | .boot => 0x00
  | .ready => 0x01
  | .armed => 0x02
  | .surveying => 0x03
  | .hold => 0x04
  | .calibrating => 0x05
  | .updating => 0x06
  | .safe => 0x0E
  | .fault => 0x0F

/-! ## SMBus (R351) -/

/-- The 7-bit address of the responder. The SMBus commands of the table are transfers to it (DEDUCED, log 130). -/
def Watch.smbusAddress (w : Watch) : Nat := 0x40 + w.straps.devAddr.toNat

/-- The value that a block read returns; an unknown command reads as zeros. -/
def State.smbusValue (s : State) (cmd : Nat) : Lane :=
  let w := s.watch
  if cmd = 0x01 then lane [(63, 48, 0x7E5A), (47, 32, 0x0960), (31, 24, Config.siRev.toNat)]
  else if cmd = 0x02 then
    lane [(0, 0, b2n w.perstPin), (1, 1, b2n (!w.perstN)), (2, 2, b2n w.pwrFailN), (15, 8, w.postedState.code)]
  else if cmd = 0x03 then BitVec.ofNat 64 w.holdupResult.1
  else if cmd = 0x10 then w.wmState
  else if cmd = 0x11 then w.wmLatch
  else if cmd = 0x12 then w.wmLatchAgain
  else if cmd = 0x13 then w.wmMode
  else if 0x20 ≤ cmd ∧ cmd ≤ 0x2F then w.wmCfg (cmd - 0x20)
  else if cmd = 0x30 then w.erWake
  else if 0x40 ≤ cmd ∧ cmd ≤ 0x5F then (w.entries.getD (cmd - 0x40) WatchEntry.reset).lane
  else 0

/-- The value read is what the last read shows; a transfer ends with the interface idle. -/
def State.smbusRead (s : State) (cmd : Nat) : State :=
  { s with dev := s.dev.onHost fun h => { h with readValue := s.smbusValue cmd }
           watch := { s.watch with smbusBusy := false } }

def execSmbusBlockRead (command : Byte) (s : State) : Host.Outcome State Fault Refusal :=
  done (if s.watch.powered then s.smbusRead command.toNat else s)

/-- A block write of 8 bytes with good PEC acts on its register; any other is discarded, and its PEC byte answered with NACK. -/
def Watch.smbusWrite (w : Watch) (cmd : Nat) (value hw : Lane) : Watch :=
  if cmd = 0x11 then w.latchWrite value hw
  else if cmd = 0x30 then w.wakeWrite value hw
  else if 0x40 ≤ cmd ∧ cmd ≤ 0x5F then w.entryWrite (cmd - 0x40) value
  else w

def execSmbusBlockWrite (command : Byte) (count : Nat) (pecGood : Bool) (value hw : Lane) (s : State) :
    Host.Outcome State Fault Refusal :=
  done { s with watch :=
    let good := count == 8 && pecGood
    let w := { s.watch with smbusBusy := false, smbusNack := !good && s.watch.powered }
    if good && w.powered then w.smbusWrite command.toNat value hw else w }

/-- The Naset answers an Alert Response read with its address while it asserts ALERT_N, and releases it (R350). -/
def State.alertResponse (s : State) : State :=
  let w := { s.watch with alert := false, smbusBusy := false }
  { s with watch := w
           dev := s.dev.when (s.watch.powered && s.watch.alert) fun d =>
             d.onHost fun h => { h with readValue := lane [(6, 0, s.watch.smbusAddress)] } }

def execAlertResponse (s : State) : Host.Outcome State Fault Refusal := done s.alertResponse

/-- SMBCLK low for more than 25 ms resets the responder's interface. -/
def execSmbusTimeout (s : State) : Host.Outcome State Fault Refusal :=
  done { s with watch := { s.watch with smbusBusy := false } }

end Sys2Proof.Machine
end

