-- ==== Sys2Proof/Machine/Signature.lean ====
section
/-! DEFINITION. The signature check of a firmware image (15 R358): the SHA-384 digest, and ECDSA over the curve P-384. R358
names the two algorithms and gives no number of theirs: all here is that of FIPS 180-4 and FIPS 186-4 (PRESUMED,
log 173). -/

namespace Sys2Proof.Machine

/-- A number put in place once it is computed, so that what uses it does not compute it again. -/
def computed {α : Type} (a : Nat) (f : Nat → α) : α :=
  match a with
  | 0 => f 0
  | .succ m => f m.succ

/-! ## SHA-384 -/

/-- The round constants as numbers of 320 bits, five constants in each, the first the most significant. -/
def shaTable : List Nat :=
  [0x428a2f98d728ae227137449123ef65cdb5c0fbcfec4d3b2fe9b5dba58189dbbc3956c25bf348b538,
   0x59f111f1b605d019923f82a4af194f9bab1c5ed5da6d8118d807aa98a303024212835b0145706fbe,
   0x243185be4ee4b28c550c7dc3d5ffb4e272be5d74f27b896f80deb1fe3b1696b19bdc06a725c71235,
   0xc19bf174cf692694e49b69c19ef14ad2efbe4786384f25e30fc19dc68b8cd5b5240ca1cc77ac9c65,
   0x2de92c6f592b02754a7484aa6ea6e4835cb0a9dcbd41fbd476f988da831153b5983e5152ee66dfab,
   0xa831c66d2db43210b00327c898fb213fbf597fc7beef0ee4c6e00bf33da88fc2d5a79147930aa725,
   0x06ca6351e003826f142929670a0e6e7027b70a8546d22ffc2e1b21385c26c9264d2c6dfc5ac42aed,
   0x53380d139d95b3df650a73548baf63de766a0abb3c77b2a881c2c92e47edaee692722c851482353b] ++
  [0xa2bfe8a14cf10364a81a664bbc423001c24b8b70d0f89791c76c51a30654be30d192e819d6ef5218,
   0xd69906245565a910f40e35855771202a106aa07032bbd1b819a4c116b8d2d0c81e376c085141ab53,
   0x2748774cdf8eeb9934b0bcb5e19b48a8391c0cb3c5c95a634ed8aa4ae3418acb5b9cca4f7763e373,
   0x682e6ff3d6b2b8a3748f82ee5defb2fc78a5636f43172f6084c87814a1f0ab728cc702081a6439ec,
   0x90befffa23631e28a4506cebde82bde9bef9a3f7b2c67915c67178f2e372532bca273eceea26619c,
   0xd186b8c721c0c207eada7dd6cde0eb1ef57d4f7fee6ed17806f067aa72176fba0a637dc5a2c898a6,
   0x113f9804bef90dae1b710b35131c471b28db77f523047d8432caab7b40c724933c9ebe0a15c9bebc,
   0x431d67c49c100d4c4cc5d4becb3e42b6597f299cfc657e2a5fcb6fab3ad6faec6c44198c4a475817]

/-- The n words of 64 bits that make up a number, the most significant first. -/
def shaWords (n x : Nat) : List Nat := (List.range n).reverse.map fun i => (x >>> (64 * i)) % 2 ^ 64

/-- The initial hash value of SHA-384, a number of 512 bits. -/
def shaInitial : Nat :=
  0xcbbb9d5dc1059ed8629a292a367cd5079159015a3070dd17152fecd8f70e593967332667ffc00b318eb44a8768581511db0c2e0d64f98fa747b5481dbefa4fa4

/-- A word written twice in a row: a shift to the right of it rotates the word. -/
def twice64 (x : Nat) : Nat := x * (2 ^ 64 + 1)

/-- The exclusive or of three rotations of a word. -/
def mixed (i j k x : Nat) : Nat :=
  computed (twice64 x) fun y => ((y >>> i) ^^^ (y >>> j) ^^^ (y >>> k)) % 2 ^ 64

/-- The exclusive or of two rotations of a word and of what a shift leaves of it. -/
def mixedOff (i j k x : Nat) : Nat :=
  computed (twice64 x) fun y => ((y >>> i) ^^^ (y >>> j) ^^^ (x >>> k)) % 2 ^ 64

/-- The bits of y where x has a 1, and those of z elsewhere. -/
def chosen (x y z : Nat) : Nat := z ^^^ (x &&& (y ^^^ z))

/-- The bits that at least two of three words have. -/
def most (x y z : Nat) : Nat := (x &&& y) ||| (z &&& (x ||| y))

/-- The next word of the message schedule; `w` are the last sixteen, oldest first. -/
def shaNext (w : List Nat) : Nat :=
  (w.headD 0 + mixedOff 1 8 7 (w.getD 1 0) + w.getD 9 0 + mixedOff 19 61 6 (w.getD 14 0)) % 2 ^ 64

/-- The rounds that are left. The eight working variables are the last four values that each of two sequences has taken,
newest first: `as` (a, b, c, d) and `es` (e, f, g, h). `w` are the next sixteen words of the schedule. -/
def shaRun : List Nat → List Nat → List Nat → List Nat → List Nat
  | k :: ks, w, a :: b :: c :: d :: _, e :: f :: g :: h :: _ =>
    computed (h + mixed 14 18 41 e + chosen e f g + k + w.headD 0) fun t =>
    computed ((t + mixed 28 34 39 a + most a b c) % 2 ^ 64) fun a' =>
    computed ((t + d) % 2 ^ 64) fun e' =>
    computed (shaNext w) fun x => shaRun ks (w.tail ++ [x]) [a', a, b, c] [e', e, f, g]
  | _, _, as, es => as ++ es

/-- n bytes of a list as one number, the first the most significant. -/
def beNat (l : List Byte) : Nat := l.foldl (fun a b => a * 256 + b.toNat) 0

/-- The hash value after so many blocks of 128 bytes. -/
def shaBlocks (table : List Nat) : Nat → List Byte → List Nat → List Nat
  | 0, _, v => v
  | n + 1, l, v =>
    let r := shaRun table (shaWords 16 (beNat (l.take 128))) (v.take 4) (v.drop 4)
    match (v.zip r).map fun x => (x.1 + x.2) % 2 ^ 64 with
    | s => shaBlocks table n (l.drop 128) s

/-- What follows a message of n bytes up to the end of a block: a byte 0x80, zeros, and 16 bytes with its length in bits. -/
def shaPadding (n : Nat) : List Byte :=
  0x80 :: (List.replicate ((239 - n % 128) % 128) 0 ++ (List.range 16).reverse.map fun i => BitVec.ofNat 8 (8 * n / 256 ^ i))

/-- The digest as a number of 384 bits. -/
def sha384 (m : List Byte) : Nat :=
  let l := m ++ shaPadding m.length
  let v := shaBlocks ((shaTable.map (shaWords 5)).flatten) (l.length / 128) l (shaWords 8 shaInitial)
  (v.take 6).foldl (fun a w => a * 2 ^ 64 + w) 0

/-! ## ECDSA over P-384 -/

/-- The prime of the field, and the order of the base point. -/
def p384 : Nat := 2 ^ 384 - 2 ^ 128 - 2 ^ 96 + 2 ^ 32 - 1
def order384 : Nat := 0xffffffffffffffffffffffffffffffffffffffffffffffffc7634d81f4372ddf581a0db248b0a77aecec196accc52973

/-- The coefficient b of y² = x³ − 3x + b. -/
def b384 : Nat := 0xb3312fa7e23ee7e4988e056be3f82d19181d9c6efe8141120314088f5013875ac656398d8a2ed19d2a85c8edd3ec2aef

/-- A point as (x/z², y/z³); with z = 0 the one at infinity. -/
structure Jacobian where
  x : Nat
  y : Nat
  z : Nat
  deriving DecidableEq, Repr

def base384 : Jacobian :=
  { x := 0xaa87ca22be8b05378eb1c71ef320ad746e1d3b628ba79b9859f741e082542a385502f25dbf55296c3a545e3872760ab7
    y := 0x3617de4a96262c6f5d9e98bf9292dc29f8f41dbd289a147ce9da3113b5f0b8c00a60b1ce1d7e819d7a431d7c90ea0e5f
    z := 1 }

def Jacobian.infinity : Jacobian := ⟨1, 1, 0⟩

/-- A point added to itself. -/
def Jacobian.twice (q : Jacobian) : Jacobian :=
  computed (q.y * q.y % p384) fun yy =>
  computed (4 * q.x * yy % p384) fun s =>
  computed (q.z * q.z % p384) fun zz =>
  computed (3 * (q.x + (p384 - zz)) * (q.x + zz) % p384) fun m =>
  computed ((m * m + 2 * (p384 - s)) % p384) fun x =>
  computed ((m * (s + (p384 - x)) + 8 * (p384 - yy * yy % p384)) % p384) fun y =>
  computed (2 * q.y * q.z % p384) fun z => ⟨x, y, z⟩

/-- The sum of two points. -/
def Jacobian.plus (q r : Jacobian) : Jacobian :=
  if q.z = 0 then r
  else if r.z = 0 then q
  else
    computed (q.z * q.z % p384) fun qq =>
    computed (r.z * r.z % p384) fun rr =>
    computed (q.x * rr % p384) fun u1 =>
    computed (r.x * qq % p384) fun u2 =>
    computed (q.y * rr * r.z % p384) fun s1 =>
    computed (r.y * qq * q.z % p384) fun s2 =>
    if u1 = u2 then (if s1 = s2 then q.twice else Jacobian.infinity)
    else
      computed (u2 + (p384 - u1)) fun h =>
      computed ((s2 + (p384 - s1)) % p384) fun w =>
      computed (h * h % p384) fun hh =>
      computed (hh * h % p384) fun hhh =>
      computed (u1 * hh % p384) fun v =>
      computed ((w * w + (p384 - hhh) + 2 * (p384 - v)) % p384) fun x =>
      computed ((w * (v + (p384 - x)) + s1 * (p384 - hhh)) % p384) fun y =>
      computed (h * q.z * r.z % p384) fun z => ⟨x, y, z⟩

/-- u·g + v·q by their bits below i, behind what the bits from i on have given. -/
def sumOfMultiples (u v : Nat) (g q both : Jacobian) : Nat → Jacobian → Jacobian
  | 0, acc => acc
  | i + 1, acc =>
    let d := acc.twice
    let e :=
      if u.testBit i then (if v.testBit i then d.plus both else d.plus g)
      else if v.testBit i then d.plus q else d
    match e with
    | ⟨x, y, z⟩ => sumOfMultiples u v g q both i ⟨x, y, z⟩

/-- Euclid's algorithm for the inverse modulo m, with enough steps for 384 bits. -/
def inverseMod (m : Nat) : Nat → Nat → Nat → Int → Int → Nat
  | 0, _, _, s, _ => (s % m).toNat
  | k + 1, a, b, s, t =>
    if b = 0 then (s % m).toNat else inverseMod m k b (a % b) t (s - (a / b : Nat) * t)

/-- The key is a point of the curve. -/
def PublicKey.onCurve (k : PublicKey) : Bool :=
  decide (k.x < p384) && decide (k.y < p384) && (k.x ^ 3 + 3 * (p384 - k.x) + b384) % p384 == k.y ^ 2 % p384

/-- (r, s) is a signature of the digest e under the key. -/
def signatureValid (k : PublicKey) (e r s : Nat) : Bool :=
  k.onCurve && decide (1 ≤ r) && decide (r < order384) && decide (1 ≤ s) && decide (s < order384) &&
    let w := inverseMod order384 600 s order384 1 0
    computed (e * w % order384) fun u =>
    computed (r * w % order384) fun v =>
    let q : Jacobian := ⟨k.x, k.y, 1⟩
    match sumOfMultiples u v base384 q (base384.plus q) 384 Jacobian.infinity with
    | ⟨x, _, z⟩ =>
      z != 0 && (r * z % p384 * z % p384 == x || (decide (r + order384 < p384) && (r + order384) * z % p384 * z % p384 == x))

end Sys2Proof.Machine
end

