-- ==== Sys2Proof/Machine/Mram.lean ====
section
/-! DEFINITION. What the MRAM of the Gazetteer holds: its regions and blocks with their CRCs, firmware images and their
verification, slots, settings banks, and what an uncorrectable error spoils (15 R354 to R360, R367). -/

namespace Sys2Proof.Machine

/-! ## Regions and blocks (R354, R356) -/

/-- The regions of the MRAM. -/
inductive Region
  | bank (bankB : Bool)
  | slot (slotB : Bool)
  | calibration
  | identityAndKeys
  deriving DecidableEq, Repr

/-- Offset and size of a region. -/
def Region.span : Region → Nat × Nat
  | .bank b => (if b then 0x10000 else 0x00000, 0x10000)
  | .slot b => (if b then 0x80000 else 0x20000, 0x60000)
  | .calibration => (0xE0000, 0x18000)
  | .identityAndKeys => (0xF8000, 0x8000)

/-- The blocks of the identity region. -/
inductive MramBlock
  | identity | keys
  | rollback (copy1 : Bool)
  | record (slotB : Bool)
  | board
  deriving DecidableEq, Repr

/-- Offset within the region, and size. -/
def MramBlock.span : MramBlock → Nat × Nat
  | .identity => (0x0000, 256)
  | .keys => (0x0100, 256)
  | .rollback c => (if c then 0x0410 else 0x0400, 16)
  | .record b => (if b then 0x0540 else 0x0500, 64)
  | .board => (0x0600, 64)

def regions : List Region := [.bank false, .bank true, .slot false, .slot true, .calibration, .identityAndKeys]

def mramBlocks : List MramBlock :=
  [.identity, .keys, .rollback false, .rollback true, .record false, .record true, .board]

/-- An offset lies in a span. -/
def inSpan (offset : Nat) (span : Nat × Nat) : Bool := decide (span.1 ≤ offset ∧ offset < span.1 + span.2)

def regionAt (offset : Nat) : Option Region := regions.find? fun r => inSpan offset r.span

/-- The block at an offset of the MRAM. -/
def blockAt (offset : Nat) : Option MramBlock :=
  if inSpan offset Region.identityAndKeys.span then
    mramBlocks.find? fun b => inSpan (offset - Region.identityAndKeys.span.1) b.span
  else none

/-! ## CRCs (R356). Where the spec gives a block's fields no places, they stand in the order in which it names them
(DESIGN CHOICE, log 174). -/

/-- A number as n bytes, most significant first. -/
def beBytes (n x : Nat) : List Nat := (List.range n).map fun i => x / 256 ^ (n - 1 - i) % 256

/-- Bytes filled up with zeros. -/
def padTo (n : Nat) (l : List Nat) : List Nat := l ++ List.replicate (n - l.length) 0

def SlotRecord.bytes (r : SlotRecord) : List Nat :=
  padTo 60 (beBytes 1 r.valid.toNat ++ beBytes 4 r.length ++ beBytes 4 r.version.toNat ++ beBytes 2 r.svn ++ beBytes 5 r.actSeq)

/-- The record with its CRC, as it is written. -/
def SlotRecord.sealed (r : SlotRecord) : SlotRecord := { r with crc := crc32 r.bytes, bad := false }

/-- The record says that the slot is valid. -/
def SlotRecord.good (r : SlotRecord) : Bool := r.valid == 0xA5 && r.crc == crc32 r.bytes && !r.bad

def RollbackCopy.bytes (r : RollbackCopy) : List Nat := padTo 12 (beBytes 2 r.value)

def RollbackCopy.sealed (v : Nat) : RollbackCopy := { value := v, crc := crc32 (padTo 12 (beBytes 2 v)), bad := false }

/-- The value of a copy; 0 where it does not check. -/
def RollbackCopy.count (r : RollbackCopy) : Nat := if r.crc = crc32 r.bytes ∧ r.bad = false then r.value else 0

def PublicKey.bytes (k : PublicKey) : List Nat := 4 :: (beBytes 48 k.x ++ beBytes 48 k.y)

def Keys.bytes (k : Keys) : List Nat := padTo 252 (k.key0.bytes ++ k.key1.bytes)

/-- The key of an index, where the block checks. -/
def Keys.key (k : Keys) (index : Nat) : Option PublicKey :=
  if k.crc = crc32 k.bytes ∧ k.bad = false then (if index = 0 then some k.key0 else if index = 1 then some k.key1 else none) else none

def Identity.bytes (i : Identity) : List Nat :=
  padTo 252 (beBytes 8 i.serial.toNat ++ beBytes 4 i.subsystem.toNat ++ beBytes 1 (if i.gradeS then 2 else 1))

/-- The IDENTITY block is valid. -/
def Identity.good (i : Identity) : Bool := i.crc == crc32 i.bytes && !i.bad

/-- n bytes of BOARD from byte i on, big-endian (R413). -/
def boardNat (b : BitVec 512) (i n : Nat) : Nat :=
  (range2 i (i + n - 1)).foldl (fun a j => a * 256 + fld b (8 * j + 7) (8 * j)) 0

/-- The CRC of BOARD checks. -/
def boardGood (b : BitVec 512) : Bool :=
  crc32 ((List.range 60).map fun j => fld b (8 * j + 7) (8 * j)) == boardNat b 60 4

/-- HOLDUP_C in µF; 0 where the block is not valid. -/
def Gazetteer.holdupC (g : Gazetteer) : Nat := if boardGood g.board && !g.boardBad then boardNat g.board 0 3 else 0

/-- VMIN in mV. -/
def boardVmin (b : BitVec 512) : Nat := boardNat b 3 2

/-- RATIO in 1/256. -/
def boardRatio (b : BitVec 512) : Nat := boardNat b 5 2

/-! ## Firmware images (R357, R358) -/

end Sys2Proof.Machine

namespace Sys2Proof

open Machine

/-- n bytes of the image from an offset on, big-endian. -/
def Image.field (i : Image) (offset n : Nat) : Nat := beNat ((i.bytes.drop offset).take n)

/-- IMAGE_LEN. -/
def Image.length (i : Image) : Nat := i.field 4 4

/-- FW_VERSION [23:0]. -/
def Image.version (i : Image) : BitVec 24 := BitVec.ofNat 24 (i.field 9 3)

def Image.svn (i : Image) : Nat := i.field 12 2

def Image.keyIndex (i : Image) : Nat := i.field 14 1

/-- SIG_R and SIG_S. -/
def Image.signature (i : Image) : Nat × Nat := (i.field 64 48, i.field 112 48)

/-- The reserved bytes are 0, bits [31:24] of FW_VERSION among them (DEDUCED, log 175). -/
def Image.reservedZero (i : Image) : Bool :=
  i.field 8 1 == 0 && ((i.bytes.drop 15).take 49).all (· == 0) && ((i.bytes.drop 160).take 864).all (· == 0)

/-- What the signature covers: header bytes 0 to 63, and the body. -/
def Image.signedBytes (i : Image) : List Byte := i.bytes.take 64 ++ i.bytes.drop 1024

/-- The image is signed under one of the keys. -/
def Image.signed (i : Image) (k : Keys) : Bool :=
  (k.key i.keyIndex).any fun key => signatureValid key (sha384 i.signedBytes) i.signature.1 i.signature.2

end Sys2Proof

namespace Sys2Proof.Machine

/-- The anti-rollback counter (R360). -/
def Gazetteer.rollback (g : Gazetteer) : Nat := max g.rollback0.count g.rollback1.count

def imageMagic : Nat := 0x7E5A0960

/-- An image verifies for the length supplied. -/
def Gazetteer.verifies (g : Gazetteer) (i : Image) (length : Nat) : Bool :=
  i.field 0 4 == imageMagic && i.length == length && i.bytes.length == length && decide (1025 ≤ length) &&
    decide (length ≤ 393216) && i.reservedZero && decide (g.rollback ≤ i.svn) && i.signed g.keys

/-! ## Slots (R359, R360) -/

def Gazetteer.fwSlot (g : Gazetteer) (slotB : Bool) : FwSlot := if slotB then g.slotB else g.slotA

def Gazetteer.setSlot (g : Gazetteer) (slotB : Bool) (x : FwSlot) : Gazetteer :=
  if slotB then { g with slotB := x } else { g with slotA := x }

/-- ACT_SEQ of a slot's record. -/
def Gazetteer.actSeq (g : Gazetteer) (slotB : Bool) : Nat := (g.fwSlot slotB).record.actSeq

/-- The image of a slot that is valid. An uncorrectable word in the slot fails its hash check (R355). -/
def Gazetteer.validImage (g : Gazetteer) (slotB : Bool) : Option Image :=
  let x := g.fwSlot slotB
  if x.record.good && !x.bad then x.image.filter fun i => g.verifies i x.record.length else none

/-- The slot as an update begins to write it: its record is invalid. -/
def FwSlot.spoilt (x : FwSlot) : FwSlot :=
  { image := none, bad := false, record := { x.record with valid := 0 }.sealed }

/-- The slot with an image and its record (R359), ACT_SEQ = 0. -/
def FwSlot.written (i : Image) : FwSlot :=
  { image := some i, bad := false
    record := { valid := 0xA5, length := i.length, version := i.version, svn := i.svn, actSeq := 0, crc := 0, bad := false
                : SlotRecord }.sealed }

/-- The slot with another ACT_SEQ. -/
def FwSlot.activated (x : FwSlot) (seq : Nat) : FwSlot := { x with record := { x.record with actSeq := seq }.sealed }

/-- READY raises the counter to the SVN of the image that runs. -/
def Gazetteer.raise (g : Gazetteer) (svn : Nat) : Gazetteer :=
  if g.rollback < svn then { g with rollback0 := RollbackCopy.sealed svn, rollback1 := RollbackCopy.sealed svn } else g

/-! ## Settings banks (R367) -/

def bankMagic : BitVec 32 := 0x5E771A0B

/-- Bytes 0 to 59 of the header, LENGTH being that of the payload. -/
def Bank.header (b : Bank) : List Nat :=
  padTo 60 (beBytes 4 b.magic.toNat ++ beBytes 5 b.sequence ++ beBytes 3 b.payload.length ++ beBytes 2 b.format.toNat ++
    beBytes 2 b.gen.toNat)

/-- The CRC of header and payload. -/
def Bank.sum (b : Bank) : Nat := crc32 (b.header ++ b.payload.map BitVec.toNat)

/-- The bank with its CRC, as it is written. -/
def Bank.sealed (b : Bank) : Bank := { b with crc := b.sum }

/-- MAGIC matches, the CRC checks, and no word is uncorrectable. -/
def Bank.valid (b : Bank) : Bool := b.magic == bankMagic && !b.bad && b.crc == b.sum

/-- Firmware of a version reads the bank: its own FORMAT, and others that it knows. -/
def Bank.readBy (b : Bank) (version : BitVec 24) : Bool := b.writer == version || Config.readsFormat version b.format

def Gazetteer.bank (g : Gazetteer) (bankB : Bool) : Option Bank := if bankB then g.bankB else g.bankA

def Gazetteer.setBank (g : Gazetteer) (bankB : Bool) (b : Option Bank) : Gazetteer :=
  if bankB then { g with bankB := b } else { g with bankA := b }

/-- The banks that are valid for firmware of a version. -/
def Gazetteer.readable (g : Gazetteer) (version : BitVec 24) : Gazetteer :=
  let good := fun (b : Bank) => b.valid && b.readBy version
  { g with bankA := g.bankA.filter good, bankB := g.bankB.filter good }

/-! ## Uncorrectable errors (R355, R388) -/

/-- What an uncorrectable word of the MRAM makes invalid. -/
def Gazetteer.spoil (g : Gazetteer) (offset : Nat) : Gazetteer :=
  match regionAt offset, blockAt offset with
  | some (.bank b), _ => g.setBank b ((g.bank b).map fun x => { x with bad := true })
  | some (.slot b), _ => g.setSlot b { g.fwSlot b with bad := true }
  | _, some .identity => { g with identity := { g.identity with bad := true } }
  | _, some .keys => { g with keys := { g.keys with bad := true } }
  | _, some (.rollback false) => { g with rollback0 := { g.rollback0 with bad := true } }
  | _, some (.rollback true) => { g with rollback1 := { g.rollback1 with bad := true } }
  | _, some (.record b) => g.setSlot b { g.fwSlot b with record := { (g.fwSlot b).record with bad := true } }
  | _, some .board => { g with boardBad := true }
  | _, none => g

end Sys2Proof.Machine
end

