-- ==== Sys2Proof/Machine/Calibration.lean ====
section
/-! DEFINITION. Interpolator calibration and deskew: candidates and their tests, application and slews, freezing,
CALIBRATE, DESKEW and their commands (04 R84 to R111, 13 R327). -/

namespace Sys2Proof.Machine

/-! ## Histograms (R91) -/

/-- n hits at a tap. -/
def addHits : List (Nat × Nat) → Nat → Nat → List (Nat × Nat)
  | [], t, n => [(t, n)]
  | (a, m) :: r, t, n => if a = t then (a, m + n) :: r else (a, m) :: addHits r t n

/-- Hits a full histogram has. -/
def fullHist : Nat := 2 ^ 20

/-- The hits of one frame: those after completion are not counted. -/
def Line.addFrame (x : Line) : List HitRun → Line
  | [] => x
  | h :: r =>
    let n := min h.hits (fullHist - x.histCount)
    let y := { x with hist := addHits x.hist h.tap n, histCount := x.histCount + n }
    if fullHist ≤ y.histCount then { y with complete := some y.hist, hist := [], histCount := 0, runDone := true }
    else y.addFrame r

/-- Hits at tap d. -/
def hitsAt (h : List (Nat × Nat)) (d : Nat) : Nat := (h.lookup d).getD 0

/-- raw[0..1535] of R92. -/
def rawShape (h : List (Nat × Nat)) : List Nat :=
  ((List.range 1536).foldl (fun (s : List Nat × Nat) d => let n := hitsAt h d; ((2 * s.2 + n) :: s.1, s.2 + n)) ([], 0)).1.reverse

/-! ## Observations (R90) -/

/-- φ of launch j. -/
def phi (j : Nat) : Nat := 1601 * j % 4096

/-- The observations as taps with their flight times in 1/16 gr. -/
def flights (obs : List Observation) : List (Nat × Int) :=
  obs.flatMap fun o =>
    let f := fun (i : Nat) (d : Option Nat) => (d.map fun t => (t, (65536 * i : Int) - 16 * phi o.launch)).toList
    f 1 o.d0 ++ f 2 o.d1 ++ f 3 o.d2

/-- Launches that gave both d0 and d1. -/
def bothSeen (obs : List Observation) : List (Nat × Nat) := obs.filterMap fun o => match o.d0, o.d1 with
  | some a, some b => some (a, b)
  | _, _ => none

def thirdSeen (obs : List Observation) : List (Nat × Nat) := obs.filterMap fun o => match o.d0, o.d2 with
  | some a, some b => some (a, b)
  | _, _ => none

/-- Taps per period as a fraction (R92). -/
def tapsPerPeriod (obs : List Observation) : Nat × Nat :=
  let n := bothSeen obs
  let m := thirdSeen obs
  let s := fun (l : List (Nat × Nat)) => sumI (l.map fun x => (x.2 : Int) - x.1)
  ((2 * s n + s m).toNat, 2 * (n.length + m.length))

/-! ## The fit (R92) -/

/-- cand[0..1535] by least squares, rounded half up. -/
def fitTable (raw : List Nat) (obs : List Observation) : List Int :=
  let pts := (flights obs).map fun x => ((raw.getD x.1 0 : Int), x.2)
  let n : Int := pts.length
  let sx := sumI (pts.map fun p => p.1)
  let sy := sumI (pts.map fun p => p.2)
  let sxx := sumI (pts.map fun p => p.1 * p.1)
  let sxy := sumI (pts.map fun p => p.1 * p.2)
  let den := n * sxx - sx * sx
  let a := n * sxy - sx * sy
  raw.map fun (r : Nat) => roundDiv (a * r * n + (sy * den - a * sx)) (n * den).toNat

/-! ## Tests (R93) -/

/-- P within 512 ± 12 %. -/
def spanDesignOk (p : Nat × Nat) : Bool := decide (45056 * p.2 ≤ 100 * p.1 ∧ 100 * p.1 ≤ 57344 * p.2) && p.2 != 0

/-- P within 1.5 % of the in-force table's. -/
def spanStepOk (p q : Nat × Nat) : Bool :=
  decide ((((p.1 * q.2 : Nat) : Int) - (q.1 * p.2 : Nat)).natAbs * 1000 ≤ 15 * (q.1 * p.2))

def monotonic : List Int → Bool
  | a :: b :: r => decide (a ≤ b) && monotonic (b :: r)
  | _ => true

/-- round(P). -/
def roundP (p : Nat × Nat) : Nat := (roundDiv p.1 p.2).toNat

/-- q times the INL. -/
def inlTimesQ (cand : List Int) (q : Nat) : Nat :=
  let c0 := cand.getD 64 0
  let c1 := cand.getD (64 + q) 0
  maxN ((range2 64 (64 + q)).map fun d => ((cand.getD d 0 - c0) * q - (c1 - c0) * ((d : Int) - 64)).natAbs)

/-- An entry as its 18 bits hold it (R61); one beyond them stops at their end (DESIGN CHOICE, log 139). -/
def lutEntry (x : Int) : Int := max 0 (min (2 ^ 18 - 1) x)

/-- A candidate with its verdict. `pPrev` is absent where test 3 is skipped. -/
def formCandidate (hist : Option (List (Nat × Nat))) (obs : List Observation) (pPrev : Option (Nat × Nat)) (locked : Bool)
    (frame tick origin : Nat) (temp : Int) (due : Bool) : Candidate :=
  let p := tapsPerPeriod obs
  let table := match hist with
    | some h => fitTable (rawShape h) obs
    | none => []
  let q := roundP p
  let inl := inlTimesQ table q
  let t1 := hist.isSome && decide (256 ≤ (bothSeen obs).length) && locked
  let t2 := spanDesignOk p
  let t3 := match pPrev with
    | some r => spanStepOk p r
    | none => true
  let t4 := monotonic table
  let t5 := decide (inl ≤ 655 * q)
  { frame := frame, tick := tick, table := .entries (table.map lutEntry), p := p, inl := (roundDiv inl q).toNat, temp := temp, origin := origin,
    reason := if !t1 then 5 else if !t2 then 1 else if !t3 then 2 else if !t4 then 3 else if !t5 then 4 else 0,
    stepOnly := t1 && t2 && !t3 && t4 && t5, due := due }

/-! ## What a tick does to a line (R94 to R101) -/

/-- A line after its candidate was treated: records for the log, whether its table begins to change, J of a slew that
begins, and whether a rejection was logged. -/
structure LineStep where
  line : Line
  records : List CalRecord
  changed : Bool
  slew : Nat
  flagged : Bool
  applied : Bool
  deriving DecidableEq, Repr

def LineStep.same (x : Line) : LineStep := { line := x, records := [], changed := false, slew := 0, flagged := false, applied := false }

/-- A record of R95. -/
def calRecord (reason : Nat) (c : Candidate) (ch l : Nat) (applied : Bool) (slew : Nat) : CalRecord :=
  [word [(35, 32, reason), (31, 30, c.origin), (29, 23, ch), (22, 20, l), (19, 19, b2n applied),
     (18, 0, clampU 19 (roundDiv (256 * (c.p.1 : Int)) c.p.2).toNat)],
   w36 c.frame,
   word [(35, 24, min 4095 c.inl), (23, 12, codeOf 12 c.temp), (11, 0, min 4095 slew)]]

/-- The largest step between two tables. -/
def maxStep (a b : Table) : Nat := maxN ((a.list.zip b.list).map fun x => (x.2 - x.1).natAbs)

/-- Step j of J of a slew (R99). -/
def slewTable (cur new : Table) (j total : Nat) : Table :=
  if total ≤ j then new
  else .entries ((cur.list.zip new.list).map fun x => x.1 + (x.2 - x.1) * j / total)

/-- An accepted candidate applies, whole or by a slew whose first step applies at once. -/
def Line.applyCand (x : Line) (c : Candidate) (ch l : Nat) (whole : Bool) (slewGr : Nat) (temp : Int) : LineStep :=
  let dmax := maxStep x.table c.table
  let j := if whole ∨ dmax = 0 then 0 else ceilDiv dmax (16 * slewGr)
  let y :=
    { x with
      tRef := temp
      p := c.p
      rejections := 0
      lastReason := some 0
      stale := false
      onLinear := false
      rejectedInRun := false
      table := if j = 0 then (if dmax = 0 then x.table else c.table) else slewTable x.table c.table 1 j
      before := if dmax = 0 then none else some x.table
      slew := if j ≤ 1 then none else some { cur := x.table, target := c.table, j := 1, total := j } }
  { line := y, records := [calRecord 0 c ch l true j], changed := dmax != 0, slew := j, flagged := false, applied := true }

/-- A rejected candidate (R94); one of CALIBRATE or of the start-up names the line in the response (R107). -/
def Line.reject (x : Line) (c : Candidate) (ch l : Nat) : LineStep :=
  let fresh := x.lastReason != some c.reason
  { line := { x with rejections := x.rejections + 1, lastReason := some c.reason, rejectedInRun := x.rejectedInRun || decide (2 ≤ c.origin) },
    records := if fresh then [calRecord c.reason c ch l false 0] else [], changed := false, slew := 0, flagged := fresh, applied := false }

/-- A frozen candidate that fails only test 3 (R101), reported once in a frozen period. It does not count in the line's
rejection total: whether it is a rejection of R94 the spec does not say (DESIGN CHOICE, log 134). -/
def Line.goStale (x : Line) (c : Candidate) (ch l : Nat) : LineStep :=
  { line := { x with stale := true, lastReason := if x.stale then x.lastReason else some 6 },
    records := if x.stale then [] else [calRecord 6 c ch l false 0], changed := false, slew := 0, flagged := false, applied := false }

/-- How an accepted candidate is treated (R97). -/
inductive Applies | never | whole | slewing
  deriving DecidableEq, Repr

/-- A candidate at its tick. -/
def Line.treat (x : Line) (c : Candidate) (ch l : Nat) (how : Applies) (frozen : Bool) (slewGr : Nat) (temp : Int) : LineStep :=
  if frozen && c.stepOnly then x.goStale c ch l
  else if c.reason ≠ 0 then x.reject c ch l
  else if frozen ∨ how = .never then LineStep.same x
  else x.applyCand c ch l (how == .whole) slewGr temp

/-- The next step of a running slew. -/
def Line.slewOn (x : Line) : Line :=
  match x.slew with
  | none => x
  | some s =>
    { x with table := slewTable s.cur s.target (s.j + 1) s.total, before := some x.table,
             slew := if s.total ≤ s.j + 1 then none else some { s with j := s.j + 1 } }

/-! ## Candidates (R85, R92) -/

/-- CALIBRATE measures channel c's lines in frame f. -/
def CalRun.measures (r : CalRun) (c f : Nat) : Bool := r.first ≤ f && bit r.banks (bankOf c)

/-- MERIDIAN_LOCK held throughout a frame. -/
def Dev.lockedIn (d : Dev) (f : Nat) : Bool :=
  match d.survey.frames.find? fun i => i.frame == f with
  | some i => !i.unlocked
  | none => d.tb.meridian.locked

/-- A line is due at a bank temperature (R96). -/
def Line.due (x : Line) (temp : Int) (tempStep : Nat) : Bool := decide (2 * tempStep < (temp - x.tRef).natAbs)

/-- A line that a full calibration takes in hand starts a fresh histogram. -/
def Line.fresh (x : Line) : Line :=
  { x with hist := [], histCount := 0, obs := [], cand := none, runDone := false, rejectedInRun := false }

/-- The last frame of measuring of a calibration that begins with frame T at k (R106). -/
def calLimit (first k : Nat) : Nat := first + 2 * ceilDiv (2 ^ 20) (2 ^ k - 16) - 1

/-- The start-up calibration begins with the first measurement in BOOT, at k = 16, or after a MERIDIAN_LOSS (R86, R361, R366,
R382). -/
def Dev.startUpRun (d : Dev) : Dev :=
  if (d.gs.op = .boot ∧ d.tb.k = 16 ∨ d.fw.relock) ∧ d.tb.meridian.locked ∧ d.cal.run.isNone ∧ !d.cal.startDone then
    let first := d.tb.frame - 1
    let r : CalRun := { slot := 16, banks := 0xFFF, deskewInt := false, first := first,
                        limit := calLimit first d.tb.k, fc := none, deskewAt := none, startUp := true, cancelled := false }
    (d.updChans fun _ x => { x with lines := x.lines.map Line.fresh }).onCal fun c => { c with run := some r }
  else d

/-- CALIBRATE measured channel c in frame f and has ended since: the frame had no shadow line there (R87). -/
def Calibration.measuredIn (k : Calibration) (c f : Nat) : Bool := k.measured.any fun m => decide (m.1 ≤ f ∧ f ≤ m.2.1) && bit m.2.2 (bankOf c)

/-- LUT_CANDIDATE_BUILT: what a line measured in the frame before (in a lead-in frame, where no hits are taken, in the
frame in progress) reaches its builder. Under CALIBRATE it is gathered until f_c; what a line measured in the frame before
T joins no fresh histogram. `startUp` is false in a BOOT that has
not loaded its settings (R361). -/
def Dev.lutBuilt (d0 : Dev) (startUp : Bool) (c l : Nat) (hits : List HitRun) (obs : List Observation) : Dev :=
  let d := d0.when startUp Dev.startUpRun
  let f := d.tb.frame
  let g := d.tb.before
  if !d.tb.running || !d.partUp partStamp then d
  else if d.inLeadIn then
    if hits = [] then
      d.updChan c fun x => x.updLine l fun y =>
        { y with cand := some (formCandidate y.complete obs (some y.p) (d.lockedIn f) f (f + 1) 1 0 true) }
    else d.updChan c fun x => x.updLine l fun y => y.addFrame hits
  else
    let run := d.cal.run.filter fun r => r.measures c f
    if run.any fun r => r.measures c (f - 1) && r.fc.isSome then d
    else if run.any fun r => r.measures c (f - 1) then
      d.updChan c fun x => x.updLine l fun y =>
        let z := { y with obs := y.obs ++ obs }
        if z.runDone then z else z.addFrame hits
    else if l = shadowLine g ∧ !d.cal.measuredIn c g then
      let temp := ((d.chan c).record g).temp
      d.updChan c fun x => x.updLine l fun y =>
        let z := if run.isSome then y else y.addFrame hits
        { z with cand := some (formCandidate z.complete obs (some y.p) (d.lockedIn g) g (f + 1) 0 temp (y.due temp d.cal.tempStep)) }
    else d

/-- The same for line l of stamp path p, of REF_IN, SYNC_IN or SYNC_OUT, which the rotation calibrates (R121, R138). No bank
measures a temperature for it: it is due in every turn (DESIGN CHOICE, log 143). -/
def Dev.pathBuilt (d : Dev) (p l : Nat) (hits : List HitRun) (obs : List Observation) : Dev :=
  let g := d.tb.before
  if d.tb.running && l == shadowLine g then
    d.onTb fun t => { t with paths := t.paths.modify p fun ls => ls.modify l fun y =>
      let z := y.addFrame hits
      { z with cand := some (formCandidate z.complete obs (some y.p) (d.lockedIn g) g (t.frame + 1) 0 0 true) } }
  else d

def execLutCandidateBuilt (ch line : Nat) (hits : List HitRun) (obs : List Observation) (s : State) :
    Host.Outcome State Fault Refusal :=
  doneDev s (if ch < 96 then s.dev.lutBuilt (s.dev.gs.op != .boot || s.boot.loaded) ch line hits obs
    else s.dev.pathBuilt (ch - 96) line hits obs)

/-! ## The tick (R97 to R104) -/

/-- How shadow-turn candidates of channel c are treated in the state of this tick (R97). The table has no row for BOOT: none
is applied there (DESIGN CHOICE, log 132). -/
def Dev.shadowMode (d : Dev) (c : Nat) : Applies × Bool :=
  let how : Applies :=
    if d.gs.op.running then .slewing
    else if d.gs.op = .boot then .never
    else if (match d.cal.run with | some r => r.measures c d.tb.frame | none => false) then .never
    else .whole
  (how, d.cal.frozen || (d.gs.op.running && d.strict))

/-- One line at the tick that opens frame f: its candidate is treated, and a running slew goes on unless the candidate
applied. A candidate that comes too late is discarded, and so are those of the two frames before a lead-in. Whether a rejected one
among these is logged and flagged, as R97 has it of every rejection, R104 does not say: it leaves no record (DESIGN CHOICE,
log 161). -/
def Dev.lineTick (d : Dev) (c l : Nat) (x0 : Line) : LineStep :=
  let f := d.tb.frame
  let x := { x0 with before := none }
  let temp := d.fw.temps.getD (bankOf c) 0
  let wasLead : Bool := f != 0 && d.survey.leadIn == some (f - 1)
  let step :=
    match x.cand with
    | none => LineStep.same x
    | some k =>
      let y := { x with cand := none }
      if k.origin = 1 then
        if wasLead ∧ k.tick = f then y.treat { k with temp := temp } c l .whole d.cal.frozen d.cal.slewGr temp
        else LineStep.same x
      else if k.tick = f ∧ !d.inLeadIn ∧ !wasLead then
        let m := d.shadowMode c
        y.treat k c l (if k.due then m.1 else .never) m.2 d.cal.slewGr temp
      else if k.tick ≤ f then LineStep.same y
      else LineStep.same x
  if step.applied then step else { step with line := step.line.slewOn }

/-- A slew step applies to the line at this tick. -/
def LineStep.slewing (s : LineStep) (x0 : Line) : Bool := s.slew != 0 || (x0.slew.isSome && !s.applied)

/-- A line of a stamp path at the tick that opens frame f: as a channel's line, without a record, for the records of R95 name
channels only. -/
def Line.pathTick (x0 : Line) (f l : Nat) (how : Applies × Bool) (slewGr : Nat) : Line :=
  let x := { x0 with before := none, cand := none }
  let step := match x0.cand with
    | some k => if k.tick = f then x.treat k 96 l how.1 how.2 slewGr 0 else LineStep.same x
    | none => LineStep.same x
  if step.applied then step.line else step.line.slewOn

/-- The stamp paths of the time base at a tick. -/
def Dev.pathTick (d : Dev) : Dev :=
  d.onTb fun t => { t with paths := t.paths.map fun p => p.mapNum fun l x => x.pathTick t.frame l (d.shadowMode 96) d.cal.slewGr }

/-- Records join the log. -/
def Calibration.addLog (c : Calibration) (rs : List CalRecord) : Calibration :=
  { c with log := (c.log ++ rs).drop (c.log.length + rs.length - 1024), logCount := c.logCount + rs.length }

/-- Every line takes a step; the log, the flags, the epoch and the adaptation records follow. -/
def Dev.stepLines (d : Dev) (f : Nat → Nat → Line → LineStep) : Dev :=
  let steps : List (List (Line × LineStep)) := d.chans.mapNum fun c x => x.lines.mapNum fun l y => (y, f c l y)
  let d1 := { d with chans := (d.chans.zip steps).map fun (x : Channel × List (Line × LineStep)) =>
    let y := { x.1 with lines := x.2.map fun (s : Line × LineStep) => s.2.line }
    if (x.2.any fun s => s.2.slewing s.1) then y.updRec d.tb.frame fun r => { r with calSlew := true } else y }
  let all := (steps.flatten).map fun s => s.2
  let recs := all.flatMap LineStep.records
  let d2 := (d1.onCal fun c => c.addLog recs).when (!recs.isEmpty) fun e => e.pulse 372
  let d3 := d2.when (all.any LineStep.flagged) fun e => e.setFlag flagCalRejected
  let d4 := d3.when (all.any LineStep.changed) Dev.newEpoch
  let starts := (steps.zipIdx.map fun x => (x.2, x.1.zipIdx.filter fun s => s.1.2.slew != 0)).filter fun x => !x.2.isEmpty
  if d.gs.op.running ∧ !starts.isEmpty then
    (d4.each starts fun e x =>
      e.log 0x5 (x.1 * 2 ^ 25 + listMask (x.2.map fun s => s.2)) d.tb.frame (maxN (x.2.map fun s => s.1.2.slew) : Nat)).markFrame
        fun i => { i with adapted := true }
  else d4

/-- The setting of FREEZE_CAL that applies at this tick. -/
def Calibration.settle (c : Calibration) : Calibration :=
  match c.pendingFreeze with
  | some (_, f) => { c with frozen := f, pendingFreeze := none }
  | none => c

/-- Calibration at the tick just past, but for CALIBRATE and deskew. -/
def Dev.calTick (d : Dev) : Dev := let e := d.onCal Calibration.settle; e.stepLines e.lineTick

/-! ## CALIBRATE (R106, R107) -/

def mbCalibrate : MbCommand :=
  onDev (form 0x401 [1]) (fun _ => [[(13, 0)]]) (fun c => faultsOf [(1, c.f 1 11 0 == 0)]) fun d c =>
    if !d.tb.warm ∧ !c.b 1 13 then (d, .fail (failPlain eNotWarm))
    else d.check (d.partsFault (maskList 12 (c.f 1 11 0) ++ [partStamp])) fun e =>
      let t := e.transitionTick
      let r : CalRun := { slot := c.slot, banks := BitVec.ofNat 12 (c.f 1 11 0), deskewInt := c.b 1 12, first := t,
                          limit := calLimit t e.tb.k, fc := none, deskewAt := none, startUp := false, cancelled := false }
      (e.onCal fun k => { k with run := some r }, .running)

def execCalibrate (slot : SlotId) (s : State) : Host.Outcome State Fault Refusal := done (s.accept slot mbCalibrate)

/-- The channels of a run. -/
def CalRun.channels (r : CalRun) : List Nat := (List.range 96).filter fun c => bit r.banks (bankOf c)

/-- Every selected line has its histogram. -/
def Dev.runComplete (d : Dev) (r : CalRun) : Bool :=
  r.channels.all fun c => (d.chan c).lines.all Line.runDone

/-- The candidates of a run apply whole at tick f_c + 2, unless the tables are frozen (R101, R103). -/
def Dev.runApply (d : Dev) (r : CalRun) (fc : Nat) : Dev :=
  d.stepLines fun c l x =>
    if bit r.banks (bankOf c) then
      let temp := ((d.chan c).record fc).temp
      let k := formCandidate (if x.runDone then x.complete else none) x.obs none (d.lockedIn fc) fc d.tb.frame
        (if r.startUp then 3 else 2) temp true
      { x with before := none, obs := [] }.treat k c l .whole d.cal.frozen d.cal.slewGr (d.fw.temps.getD (bankOf c) 0)
    else LineStep.same x

/-- Lines rejected in the run. -/
def Dev.rejectedLines (d : Dev) (r : CalRun) : List (Nat × Nat) :=
  r.channels.flatMap fun c => ((List.range 5).filter fun l => ((d.chan c).line l).rejectedInRun).map fun l => (c, l)

/-- EPOCH and REJECTED. -/
def Dev.calWords (d : Dev) (r : CalRun) : List Word := w36 (d.gs.epochs % 4096) :: lineMapWords (d.rejectedLines r)

/-- No full calibration any more; its frames up to `last` had no shadow line in its banks (R87). Of these only the last two can
still be reported of. -/
def Calibration.withoutRun (k : Calibration) (last : Nat) : Calibration :=
  { k with run := none
           measured := match k.run with
             | some r => if r.first ≤ last then some (max r.first (last - 1), last, r.banks) else k.measured
             | none => k.measured }

/-- The run is over, and the Naset returns to READY. Of a histogram that a CANCEL leaves partly filled R106 does not speak: it
stays the line's histogram in progress (DESIGN CHOICE, log 162). -/
def Dev.runEnd (d : Dev) (r : CalRun) (reply : Reply) : Dev :=
  let d1 := d.onCal fun c =>
    { c.withoutRun d.tb.before with startDone := c.startDone || r.startUp }
  let d2 := if d1.gs.op = .calibrating then d1.onGs fun g => { g with op := .ready } else d1
  if r.startUp then d2 else d2.reply r.slot reply

/-- DESKEW or the deskew of CALIBRATE starts at this tick. -/
def deskewRun (slot : Nat) (chs : List Nat) (first : Nat) (ofCal : Bool) : DeskewRun :=
  { slot := slot, channels := chs, fixture := [], set := [], first := first, cancelled := false, ofCalibrate := ofCal,
    answer := none }

/-- CALIBRATE at the tick that opens frame f. M is that of the k in force from its first tick. PROGRESS counts the frames, of
those that measuring can take (log 104). With a CANCEL before T the histograms in progress of the selected lines are discarded
at T all the same, though nothing is measured: R107 does not say (DESIGN CHOICE, log 182). -/
def Dev.runTick (d : Dev) : Dev :=
  match d.cal.run with
  | none => d
  | some r0 =>
    let f := d.tb.frame
    let r := if f = r0.first ∧ !r0.startUp then { r0 with limit := calLimit f d.tb.k } else r0
    let d1 :=
      if f = r.first ∧ !r.startUp then
        ((d.onGs fun g => { g with op := .calibrating }).onCal fun c => { c with run := some r }).updChans fun c x =>
          if bit r.banks (bankOf c) then { x with lines := x.lines.map Line.fresh } else x
      else if r.first < f ∧ !r.startUp then d.progress r.slot (1000 * (f - r.first) / (r.limit + 5 - r.first))
      else d
    if r.cancelled ∧ r.deskewAt.isNone then d1.runEnd r (.fail (failPlain eCancelled))
    else match r.fc with
    | none =>
      let fc := f - 2
      if r.first ≤ fc ∧ 2 ≤ f ∧ (d1.runComplete r ∨ r.limit ≤ fc) then
        let d2 := d1.runApply r fc
        let r2 := { r with fc := some fc, deskewAt := some f }
        if r.startUp then d2.runEnd r2 .running
        else
          let d3 := d2.onCal fun c => { c with run := some r2 }
          if r.deskewInt then d3.onCal fun c => { c with deskew := some (deskewRun r.slot r.channels f true) } else d3
      else d1
    | some fc =>
      if fc + 2 + (if r.deskewInt then 2 else 1) ≤ f then
        let words := d1.calWords r
        d1.runEnd r (if (d1.rejectedLines r).isEmpty then .ok words
          else .fail { code := eCalReject, index := 0xFFF, detail := 0, resp := words })
      else d1

/-! ## DESKEW (R108 to R111) -/

/-- The sum of a comparator's constants lies in the range of R108. -/
def Deskew.inRange (k : Deskew) : Bool :=
  let ok := fun (x : Int) => decide (-(2 ^ 19 : Nat) ≤ x ∧ x ≤ (2 ^ 19 : Nat) - 1)
  ok (k.pkg + k.intRise + k.fix) && ok (k.pkg + k.intFall + k.fix)

/-- The commands of DESKEW. -/
def Cmd.deskewRun (c : Cmd) (first : Nat) : DeskewRun :=
  let words := (range2 2 c.count).map fun i => i
  { slot := c.slot, first := first, cancelled := false, ofCalibrate := false, answer := none
    channels := if c.f 1 1 0 = 0 then channelMask (c.w 2) (c.w 3) (c.w 4) else []
    fixture := if c.f 1 1 0 = 1 then words.map fun i => (c.f i 35 29, c.f i 22 0) else []
    set := if c.f 1 1 0 = 2 then words.map fun i => (c.f i 35 29, c.b i 28, c.b i 27, c.s i 19 0) else [] }

/-- The channels that a run names. -/
def DeskewRun.named (r : DeskewRun) : List Nat :=
  (List.range 96).filter fun c =>
    decide (c ∈ r.channels) || r.fixture.any (fun x => x.1 == c) || r.set.any fun x => x.1 == c

/-- Frames that a run measures. -/
def DeskewRun.frames (r : DeskewRun) : Nat := if !r.channels.isEmpty then 2 else if !r.fixture.isEmpty then 1 else 0

def Cmd.deskewLayout (c : Cmd) : List (List (Nat × Nat)) :=
  [(1, 0)] :: (if c.f 1 1 0 = 0 then maskWords
    else List.replicate 30 (if c.f 1 1 0 = 1 then [(35, 29), (22, 0)] else [(35, 27), (19, 0)]))

def mbDeskew : MbCommand :=
  onDev (form 0x403 (range2 2 31)) Cmd.deskewLayout
    (fun c => (if c.f 1 1 0 = 0 ∧ c.count ≠ 4 then [0] else []) ++
      faultsOf ([(1, c.f 1 1 0 == 3)] ++
        (if c.f 1 1 0 = 0 then [] else (range2 2 c.count).map fun i => (i, decide (95 < c.f i 35 29))))) fun d c =>
    let r := c.deskewRun d.nextTick
    d.check (d.partsFault (banksOf r.named ++ [partStamp])) fun e =>
      ((e.onCal fun k => { k with deskew := some r }).defer (r.first + r.frames) 0x403 .deskew, .running)

def execDeskew (slot : SlotId) (s : State) : Host.Outcome State Fault Refusal := done (s.accept slot mbDeskew)

/-- A channel under internal deskew: at the Benchmark, both comparators in FAST, QUAD. -/
def Channel.atBenchmark (x : Channel) (cc : Nat) (rangeChanged : Bool) : Channel :=
  let y := x.setSwitch cc .benchmark
  { y with a := y.a.apply cc .fast x.cfg.thrA x.cfg.hysA rangeChanged, b := y.b.apply cc .fast x.cfg.thrB x.cfg.hysB rangeChanged,
           mode := .quad }

/-- A stamp's distance in gr from the Benchmark edge of its sense nearest to it, the frame's tick at `tick` cc. -/
def benchOffset (s : Stamp) (tick : Nat) : Int :=
  let first : Nat := if s.rising = Config.benchRises then 2 else 10
  toGrid' ((s.time : Int) - (tick + first) * 4096)
where
  /-- to the nearest multiple of 16 coarse cycles -/
  toGrid' (x : Int) : Int := (x + 32768) % 65536 - 32768

/-- The measured edges of comparator A or B in a frame of 2^k coarse cycles that opened at `tick`. -/
def measured (r : FrameRec) (tick k : Nat) (compB rising : Bool) : List Stamp :=
  let lo := tick + (if compB then 2 ^ (k - 1) + 1024 else 1024)
  let hi := tick + (if compB then 2 ^ k else 2 ^ (k - 1))
  r.offPin.filter fun s =>
    let b : Int := (s.time : Int) - benchOffset s tick
    s.rising == rising && decide ((lo * 4096 : Nat) ≤ b) && decide (b < (hi * 4096 : Nat))

/-- The mean in 1/16 gr; `none` of an empty list. -/
def mean16 (l : List Int) : Option Int := if l = [] then none else some (roundDiv (16 * sumI l) l.length)

/-- The constants of one comparator in one range from a frame's record. -/
def Deskew.measure (k : Deskew) (r : FrameRec) (tick kk : Nat) (compB : Bool) : Option Deskew :=
  let m := fun (rising : Bool) => mean16 ((measured r tick kk compB rising).map fun s => benchOffset s tick)
  match m true, m false with
  | some a, some b => some { k with intRise := a, intFall := b }
  | _, _ => none

/-- Tick and k of a frame. -/
def Dev.frameAt (d : Dev) (f : Nat) : Nat × Nat :=
  match d.survey.frames.find? fun i => i.frame == f with
  | some i => (i.tick, Nat.log2 i.length)
  | none => (d.tb.nominal f, d.tb.k)

/-- Internal deskew of one channel, measured in frames f and f + 1: its constants, and 1 OK, 2 OUT_OF_RANGE or
3 NO_EDGES. -/
def Dev.internal (d : Dev) (c f : Nat) : Channel × Nat :=
  let x := d.chan c
  let lo := d.frameAt f
  let hi := d.frameAt (f + 1)
  let k := fun (i : Nat) => x.deskew.getD i Deskew.reset
  match (k 0).measure (x.record f) lo.1 lo.2 false, (k 1).measure (x.record (f + 1)) hi.1 hi.2 false,
        (k 2).measure (x.record f) lo.1 lo.2 true, (k 3).measure (x.record (f + 1)) hi.1 hi.2 true with
  | some a, some b, some e, some g =>
    if [a, b, e, g].all Deskew.inRange then ({ x with deskew := [a, b, e, g] }, 1) else (x, 2)
  | _, _, _, _ => (x, 3)

/-- A D_fix that a run would set: the channel named, the channel and comparator and range that it belongs to, and its
value; none where the channel stamped too few edges. -/
structure FixWord where
  ch : Nat
  fix : Option (Nat × Nat × Int)
  deriving DecidableEq, Repr

/-- The constants of a channel with a D_fix replaced. -/
def Dev.withFix (d : Dev) (x : Nat × Nat × Int) : Deskew := { (d.chan x.1).deskew.getD x.2.1 Deskew.reset with fix := x.2.2 }

/-- Fixture deskew of one channel, measured in frame f (R111). -/
def Dev.fixture (d : Dev) (c delay f : Nat) : FixWord :=
  let t := (d.frameAt f).1
  let ss := ((d.chan c).record f).stamps.filter fun s => (t + 1024) * 4096 ≤ s.time
  let offs := ss.map fun s =>
    benchOffset { s with time := ((s.time : Int) - delay - Config.calOutDelay).toNat } t
  -- the comparator stamped: the channel's A, or B of its partner (R42)
  let own := d.ownPath c
  let x := if own then c else partnerOf c
  let i := 2 * b2n (!own) + b2n (d.chan x).cfg.highRange
  { ch := c, fix := if ss.length < 64 then none
    else (mean16 offs).map fun m => (x, i, ((d.chan x).deskew.getD i Deskew.reset).fix + m) }

/-- Statuses as six words. -/
def statusWords (l : List (Nat × Nat)) : List Word :=
  (List.range 6).map fun w => w36 (packNat ((l.filter fun x => x.1 / 16 == w).map fun x =>
    (2 * (x.1 % 16) + 1, 2 * (x.1 % 16), x.2)))

/-- What FIXTURE and SET would set. -/
def Dev.fixWords (d : Dev) (r : DeskewRun) : List FixWord :=
  (r.fixture.map fun x => d.fixture x.1 x.2 r.first) ++
    r.set.map fun x => { ch := x.1, fix := some (x.1, 2 * b2n x.2.1 + b2n x.2.2.1, x.2.2.2) }

/-- The status of a word: 1 OK, 2 OUT_OF_RANGE, 3 NO_EDGES. -/
def Dev.fixStatus (d : Dev) (w : FixWord) : Nat :=
  match w.fix with
  | none => 3
  | some x => if (d.withFix x).inRange then 1 else 2

/-- The constants of a run apply, with each channel's status, the worst of its words; a channel with a word that is not OK
keeps all its constants (R109). -/
def Dev.deskewApply (d : Dev) (r : DeskewRun) : Dev × List (Nat × Nat) :=
  let a := r.channels.foldl (fun (s : Dev × List (Nat × Nat)) c =>
    let y := s.1.internal c r.first
    (s.1.updChan c fun _ => y.1, s.2 ++ [(c, y.2)])) (d, [])
  let ws := d.fixWords r
  let status := fun c => maxN ((ws.filter fun w => w.ch == c).map d.fixStatus)
  let good := (ws.filter fun w => status w.ch == 1).filterMap FixWord.fix
  (a.1.each good fun e x => e.updChan x.1 fun y => { y with deskew := y.deskew.set x.2.1 (d.withFix x) },
   a.2 ++ ((List.range 96).filter fun c => ws.any fun w => w.ch == c).map fun c => (c, status c))

/-- The deskew is over: CAL_OUT is idle, and no constants wait. -/
def Dev.endDeskew (d : Dev) : Dev :=
  (d.onFw fun w => { w with deferred := w.deferred.filter fun e => e.effect != .deskew }).onCal fun k =>
    { k with deskew := none, calOut := false }

/-- The pin position, the host's settings and the idle CAL_OUT again. -/
def Dev.deskewRestore (d : Dev) (r : DeskewRun) (cc : Nat) : Dev :=
  (d.each r.channels fun e c => e.updChan c fun x => (x.setSwitch cc .pin).restore cc true).endDeskew

/-- A DESKEW whose command is gone: its channels are restored at the next tick. -/
def Dev.deskewDrop (d : Dev) (r : DeskewRun) : Dev :=
  let on := if r.first ≤ d.tb.frame then r.channels else []
  (d.onFw fun w => { w with restores := w.restores ++ on.map fun c => (c, true) }).endDeskew

/-- Deskew constants that differ from those of the device before begin an epoch (R98). -/
def Dev.deskewEpoch (d before : Dev) : Dev :=
  d.when (d.chans.map Channel.deskew != before.chans.map Channel.deskew) Dev.newEpoch

/-- The constants of the deskew under way apply, in their place among the effects of the tick (R297). -/
def Dev.deskewEffect (d : Dev) : Dev :=
  match d.cal.deskew with
  | none => d
  | some r =>
    if r.cancelled then d
    else
      let y := d.deskewApply r
      (y.1.deskewEpoch d).onCal fun k => { k with deskew := some { r with answer := some y.2 } }

/-- DESKEW at the tick that opens frame f at `cc`. The constants of a DESKEW of CALIBRATE apply here, those of the command have
applied with the tick's effects. -/
def Dev.deskewTick (d : Dev) (cc : Nat) : Dev :=
  match d.cal.deskew with
  | none => d
  | some r =>
    let f := d.tb.frame
    if f < r.first then d
    else if r.cancelled then
      let e := d.deskewRestore r cc
      if r.ofCalibrate then e else e.reply r.slot (.fail (failPlain eCancelled))
    else if f < r.first + r.frames then
      let e := (d.each r.channels fun e c => e.updChan c fun x => x.atBenchmark cc (f != r.first)).onCal fun k =>
        { k with calOut := !r.fixture.isEmpty }
      if r.ofCalibrate then e else e.progress r.slot (1000 * (f - r.first) / r.frames)
    else match r.answer with
    | some statuses => (d.deskewRestore r cc).reply r.slot (.ok (w36 (d.gs.epochs % 4096) :: statusWords statuses))
    | none => ((d.deskewApply r).1.deskewRestore r cc).deskewEpoch d

/-! ## The other commands -/

def mbSetCalPolicy : MbCommand :=
  onDev (form 0x402 [1]) (fun _ => [[(12, 0)]])
    (fun c => faultsOf [(1, !(1 ≤ c.f 1 5 0 && c.f 1 5 0 ≤ 40) || !(1 ≤ c.f 1 12 6 && c.f 1 12 6 ≤ 64))]) fun d c =>
    d.deferNext c (.calPolicy (c.f 1 5 0) (c.f 1 12 6)) []

def execSetCalPolicy (slot : SlotId) (s : State) : Host.Outcome State Fault Refusal := done (s.accept slot mbSetCalPolicy)

def mbFreezeCal : MbCommand :=
  onDev (form 0x405 [1]) (fun _ => [[(0, 0)]]) (fun _ => []) fun d c =>
    (d.onCal fun k => { k with pendingFreeze := some (d.nextTick, c.b 1 0) }, .deferred d.nextTick [])

def execFreezeCal (slot : SlotId) (s : State) : Host.Outcome State Fault Refusal := done (s.accept slot mbFreezeCal)

/-- The log from record `first`, or the oldest held. -/
def Calibration.logWords (c : Calibration) (first : Nat) : List Word :=
  let oldest := c.logCount - c.log.length
  let n := max first oldest
  [w36 (c.logCount % 2 ^ 32), w36 (n % 2 ^ 32)] ++ ((c.log.drop (n - oldest)).take 20).flatten

def Line.calWords (x : Line) : List Word :=
  [word [(35, 17, clampU 19 (roundDiv (256 * (x.p.1 : Int)) x.p.2).toNat), (16, 5, codeOf 12 x.tRef), (3, 3, b2n x.slew.isSome),
     (2, 2, b2n x.stale)],
   w36 (min x.rejections (2 ^ 36 - 1))]

def Deskew.words (k : Deskew) : List Word :=
  [k.pkg, k.intRise, k.intFall, k.fix].map fun x => w36 (codeOf 20 x)

def Dev.getCal (d : Dev) (what first : Nat) : List Word :=
  if what = 0 then d.cal.logWords first
  else
    let x := d.chan (first % 128)
    if what = 1 then w36 (d.gs.epochs % 2 ^ 32) :: x.lines.flatMap Line.calWords
    else x.deskew.flatMap Deskew.words

def mbGetCal : MbCommand :=
  onDev (form 0x404 [1]) (fun c => [if c.f 1 35 32 = 0 then [(35, 0)] else [(35, 32), (6, 0)]])
    (fun c => faultsOf [(1, decide (2 < c.f 1 35 32) || (c.f 1 35 32 != 0 && decide (95 < c.f 1 6 0)))]) fun d c =>
    (d, .ok (d.getCal (c.f 1 35 32) (c.f 1 31 0)))

def execGetCal (slot : SlotId) (s : State) : Host.Outcome State Fault Refusal := done (s.accept slot mbGetCal)

/-! ## Persistent disagreement (R417) -/

/-- The closed record of a frame in which the channel stamped in QUAD, unless it came before the block, joins the running
block of each line that was active in it. A frame in QUAD mode without a QUAD edge is not counted: R417 does not
say whether the channel stamped in QUAD in it (DESIGN CHOICE, log 181). -/
def Channel.healthOf (x : Channel) (r : FrameRec) : Channel :=
  if 0 < x.health.skip then { x with health := { x.health with skip := x.health.skip - 1 } }
  else if r.quadEdges = 0 ∨ r.bankDown then x
  else
    let act : Nat → Bool := fun l => l != shadowLine r.frame
    let fr := x.health.frames.mapNum fun l n => if act l then n + 1 else n
    let ed := x.health.edges.mapNum fun l n => if act l then n + r.quadEdges else n
    let st := x.health.stars.mapNum fun l n => if act l then n + r.lineStar.getD l 0 else n
    let full : Nat → Bool := fun l => 256 ≤ fr.getD l 0
    { x with
      health := { skip := 0, frames := fr.mapNum fun l n => if full l then 0 else n, edges := ed.mapNum fun l n => if full l then 0 else n,
                  stars := st.mapNum fun l n => if full l then 0 else n }
      lines := x.lines.mapNum fun l y =>
        if full l then { y with marked := Nat.ble 1024 (ed.getD l 0) && Nat.ble (ed.getD l 0) (100 * st.getD l 0) } else y }

end Sys2Proof.Machine
end

