-- ==== Sys2Proof/Machine/Triangulation.lean ====
section
/-! DEFINITION. Triangulation: the SYNC marker, ALIGN_ARM, ALIGN_MEASURE, ALIGN_APPLY and alignment checking
(05 R137 to R143, 13 R333). -/

namespace Sys2Proof.Machine

/-! ## The marker (R138) -/

/-- Bits hi down to lo of a marker, the first sent first. -/
def markerBits (b : BitVec 152) (hi lo : Nat) : List Bool := (range2 lo hi).reverse.map fun i => b.getLsbD i

def markerCrcGood (b : BitVec 152) : Bool := crc16 (markerBits b 135 16) == fld b 15 0

/-- CRC good, and K that of the receiver (R139). -/
def markerValid (b : BitVec 152) (k : Nat) : Bool := markerCrcGood b && fld b 127 123 == k

/-- The upstream tick's extended count. -/
def markerCount (b : BitVec 152) : Nat := fld b 79 64 * 2 ^ 48 + fld b 63 16

/-- The marker that the device sends at the tick that opened the frame in progress. -/
def TimeBase.marker (t : TimeBase) : BitVec 152 :=
  let a := t.align
  let b := packNat [(151, 136, 0xFF00), (135, 130, a.hop), (129, 129, b2n (!a.role || t.syncAligned)),
    (128, 128, b2n t.holdover), (127, 123, t.k), (119, 80, t.frame), (79, 64, t.tickCount / 2 ^ 48), (63, 16, t.tickCount)]
  BitVec.ofNat 152 (b + crc16 (markerBits (BitVec.ofNat 152 b) 135 16))

/-- SYNC_OUT carries markers. -/
def TimeBase.sendsMarkers (t : TimeBase) : Bool := t.align.armed && t.align.markersOn

/-- SYNC_OUT is turned around, as a receiver, at a coarse offset of the frame, both ends included (R139). -/
def TimeBase.turnedAt (t : TimeBase) (offset : Nat) : Bool :=
  t.align.armed && t.align.echo && decide (2 ^ (t.k - 2) ≤ offset ∧ offset ≤ 3 * 2 ^ (t.k - 2))

/-- The bit on SYNC_OUT in a coarse cycle of the frame in progress: one bit for 4 cycles, the marker in the 152 bits from the
tick on, else the idle pattern, 1 for even bits. None where the output is turned around. -/
def TimeBase.syncBit (t : TimeBase) (cc : Nat) : Option Bool :=
  let offset := cc - t.tickCount
  if t.turnedAt offset then none
  else some (if t.sendsMarkers && decide (offset < 608) then t.marker.getLsbD (151 - offset / 4) else cc / 4 % 2 == 0)

/-! ## Commands -/

def mbAlignArm : MbCommand :=
  onDev (form 0xA01 [1]) (fun _ => [[(7, 0)]])
    (fun c => faultsOf [(1, c.b 1 0 != (c.f 1 6 1 != 0))]) fun d c =>
    (d.onAlign fun a => { a with pendingArm := some (d.nextTick, c.b 1 0, c.f 1 6 1, c.b 1 7), measured := false },
     .deferred d.nextTick [])

def execAlignArm (slot : SlotId) (s : State) : Host.Outcome State Fault Refusal := done (s.accept slot mbAlignArm)

def mbAlignMeasure : MbCommand :=
  onDev (form 0xA02 [1]) (fun _ => [[(4, 0)]]) (fun c => faultsOf [(1, c.f 1 4 0 < 10 || 20 < c.f 1 4 0)])
    fun d c =>
    let m : MeasureRun :=
      { slot := c.slot, from_ := d.tb.frame, wanted := 2 ^ c.f 1 4 0, sent := 0, returned := 0, sum := 0, launch := 0,
        probes := 0, echoed := 0 }
    (d.onAlign fun a => { a with measure := some m, measureCancelled := false }, .running)

def execAlignMeasure (slot : SlotId) (s : State) : Host.Outcome State Fault Refusal := done (s.accept slot mbAlignMeasure)

/-- ALIGN_APPLY: the head moves nothing; a member waits for a marker. -/
def mbAlignApply : MbCommand :=
  onDev (form 0xA03 [0]) (fun _ => []) (fun _ => []) fun d c =>
    let a := d.tb.align
    if a.armed ∧ !a.role then (d, .deferred d.nextTick (wordsT72 0))
    else if !a.measured then (d, .fail (failPlain eState))
    else (d.onAlign fun x => { x with apply := some (c.slot, d.tb.frame) }, .running)

def execAlignApply (slot : SlotId) (s : State) : Host.Outcome State Fault Refusal := done (s.accept slot mbAlignApply)

/-- ALIGN_APPLY_TIMEOUT: 256 frames without a valid aligned marker. -/
def Dev.applyTimeout (d : Dev) : Dev :=
  match d.tb.align.apply with
  | none => d
  | some (slot, f) =>
    if f + 256 ≤ d.tb.frame then (d.onAlign fun a => { a with apply := none }).reply slot (.fail (failPlain eLink)) else d

def execAlignApplyTimeout (s : State) : Host.Outcome State Fault Refusal := doneDev s s.dev.applyTimeout

/-! ## Probes (R140) -/

/-- Probes of one frame. -/
def probesPerFrame (k : Nat) : Nat := 2 ^ (k - 9) - 1

/-- The time between two probes, in gr. -/
def probeStep : Nat := 256 * 4096

/-- A stamp lies where the device has turned SYNC_OUT around (R139). -/
def TimeBase.turned (t : TimeBase) (stamp : Nat) : Bool :=
  decide (t.tickTime ≤ stamp) && t.turnedAt (stamp / 4096 - t.tickCount)

/-- SYNC_PROBE_RECEIVED: the SYNC_OUT path stamps the probe, and the echo leaves 262,144 gr after the stamp. -/
def Dev.probeReceived (d : Dev) (codes : List LineCode) : Dev :=
  match d.tb.pathStamp 2 codes with
  | some stamp => d.when (d.tb.running && d.tb.turned stamp) fun e => e.onAlign fun a => { a with lastEcho := stamp + 262144 }
  | none => d

def execSyncProbeReceived (codes : List LineCode) (s : State) : Host.Outcome State Fault Refusal :=
  doneDev s (s.dev.probeReceived codes)

/-- The probes after a valid marker that arrived at `arrival`, of those still wanted: the first leaves 2^(k-2) + 128 coarse
cycles after the coarse cycle of the arrival, and each 256 after the one before. R140 launches probes on the DCO grid, on which
the arrival's stamp does not lie: they are counted from the coarse edge at or before it (DESIGN CHOICE, log 165). -/
def MeasureRun.launchAfter (m : MeasureRun) (arrival k : Nat) : MeasureRun :=
  let n := min (probesPerFrame k) (m.wanted - m.sent)
  { m with sent := m.sent + n, launch := (arrival / 4096 + 2 ^ (k - 2) + 128) * 4096, probes := n, echoed := 0 }

/-- An echo at `arrival` is that of the last probe launched before it, and counts if it came back within 256 coarse cycles,
as the first of its probe. -/
def MeasureRun.echo (m : MeasureRun) (arrival : Nat) : MeasureRun :=
  let j := (arrival - m.launch - 1) / probeStep
  if m.launch < arrival ∧ j < m.probes ∧ m.echoed ≤ j then
    { m with returned := m.returned + 1, sum := m.sum + ((arrival : Int) - (m.launch + j * probeStep : Nat)), echoed := j + 1 }
  else m

/-- PROBE_ECHO: the SYNC_IN path stamps the echo. -/
def Dev.probeEcho (d : Dev) (codes : List LineCode) : Dev :=
  match d.tb.pathStamp 1 codes with
  | some arrival =>
    match d.tb.align.measure with
    | some m =>
      let u := m.echo arrival
      if u = m then d else (d.onAlign fun a => { a with measure := some u }).progress m.slot (1000 * u.returned / m.wanted)
    | none => d
  | none => d

def execProbeEcho (first : LineCode) (rest : List LineCode) (s : State) : Host.Outcome State Fault Refusal :=
  doneDev s (s.dev.probeEcho (first :: rest))

/-- Every probe was sent, or the command's time is over (R333). -/
def MeasureRun.ended (m : MeasureRun) (k frame : Nat) : Bool :=
  decide (m.wanted ≤ m.sent) || decide (m.from_ + ceilDiv m.wanted (probesPerFrame k) + 2 ≤ frame)

/-- L of R140, rounded to a whole gr. -/
def MeasureRun.delay (m : MeasureRun) : Int := roundDiv (m.sum - 262144 * m.returned) (2 * m.returned)

/-- ALIGN_MEASURE_DONE. -/
def Dev.measureDone (d : Dev) : Dev :=
  match d.tb.align.measure with
  | none => d
  | some m =>
    if !m.ended d.tb.k d.tb.frame then d
    else if 2 * m.returned < m.wanted then
      (d.onAlign fun a => { a with measure := none }).reply m.slot (.fail (failPlain eLink))
    else
      (d.onAlign fun a => { a with measure := none, measured := true, linkDelay := m.delay }).reply m.slot
        (.ok (wordsT72 m.delay ++ [w36 m.returned, w36 m.sent]))

def execAlignMeasureDone (s : State) : Host.Outcome State Fault Refusal := doneDev s s.dev.measureDone

/-! ## SYNC_MARKER (R139, R141, R143) -/

/-- t_rx − (T_up + L). -/
def TimeBase.residualOf (t : TimeBase) (b : BitVec 152) (arrival : Nat) : Int :=
  (arrival : Int) - (markerCount b * 4096 : Nat) - t.align.linkDelay

/-- The marker as the reference (R121, R122). -/
def Dev.syncRef (d : Dev) (valid : Bool) (err : Int) : Dev :=
  if d.tb.cfg.refSrc != 2 then d
  else if valid then
    d.onTb fun t =>
      let n := min 4 (t.align.validRun + 1)
      let u := { t with align := { t.align with validRun := n } }
      (if 4 ≤ n then u.present else u).phase err (err - t.refPhase)
  else
    (d.onAlign fun a => { a with validRun := 0 }).when d.tb.refPresent Dev.loseRef

/-- ALIGN_APPLY computes Δ from an aligned marker and names its move's tick. -/
def Dev.applyMarker (d : Dev) (b : BitVec 152) (delta : Int) : Dev :=
  match d.tb.align.apply with
  | none => d
  | some (slot, _) =>
    let m : MoveDue := { tick := d.nextTick, delta := delta, upFrame := fld b 119 80, upCount := markerCount b }
    (d.onAlign fun a => { a with apply := none, move := some m }).reply slot (.deferred d.nextTick (wordsT72 delta))

/-- A marker breaks the alignment (R143). -/
def TimeBase.breaks (t : TimeBase) (b : BitVec 152) (err : Int) : Bool :=
  !markerValid b t.k || fld b 119 80 != t.frame % 2 ^ 40 || decide (64 < err.natAbs)

/-- The alignment is lost: source 382 at once, SYNC_ALIGNED at the next tick. -/
def Dev.misalign (d : Dev) : Dev :=
  if d.tb.align.misaligned then d else (d.onAlign fun a => { a with misaligned := true }).pulse 382

/-- A marker stamped at a member. -/
def Dev.syncMarker (d : Dev) (b : BitVec 152) (arrival : Nat) : Dev :=
  if d.tb.running && d.tb.align.armed && d.tb.align.role then
    let valid := markerValid b d.tb.k
    let err := d.tb.residualOf b arrival
    let d1 := d.onAlign fun a =>
      { a with
        markerSeen := true
        residual := if valid then err else a.residual
        measure := a.measure.map fun m => if valid then m.launchAfter arrival d.tb.k else m }
    let d2 := d1.syncRef valid err
    let d3 := d2.when (valid && b.getLsbD 129) fun e => e.applyMarker b err
    d3.when (d.tb.syncAligned && d.tb.breaks b err) Dev.misalign
  else d

/-- SYNC_MARKER: the SYNC_IN path stamps the marker's first edge. -/
def execSyncMarker (bits : BitVec 152) (codes : List LineCode) (s : State) : Host.Outcome State Fault Refusal :=
  doneDev s (match s.dev.tb.pathStamp 1 codes with
    | some arrival => s.dev.syncMarker bits arrival
    | none => s.dev)

/-! ## At a tick -/

/-- A cancelled measurement ends. -/
def Dev.measureTick (d : Dev) : Dev :=
  match d.tb.align.measure with
  | some m =>
    if d.tb.align.measureCancelled then
      (d.onAlign fun a => { a with measure := none, measureCancelled := false }).reply m.slot (.fail (failPlain eCancelled))
    else d
  | none => d

/-- ALIGN_ARM at its tick, before whose frame number is `frame`. -/
def Dev.armTick (d : Dev) : Dev :=
  match d.tb.align.pendingArm with
  | none => d
  | some (_, role, hop, echo) =>
    (d.onAlign fun a => { a with pendingArm := none, armed := true, role := role, hop := hop, echo := echo,
                                 markersOn := true, markerSeen := true, misaligned := false }).onTb fun t =>
      { t with syncAligned := false }

/-- The marker expected in the frame that ended did not come, or the alignment was lost in it (R143). A device with REF_SRC = SYNC
that is no member takes no marker, and misses each (R121). -/
def Dev.alignTick (d : Dev) : Dev :=
  let d1 := d.when (d.tb.syncAligned && !d.tb.align.markerSeen) Dev.misalign
  let d2 := d1.when (!d1.tb.align.markerSeen) fun e => e.syncRef false 0
  let d3 := d2.when d2.tb.align.misaligned fun e => e.onTb fun t => { t with syncAligned := false }
  d3.onAlign fun a => { a with markerSeen := false, misaligned := false }

/-- The first frame number after f that reads as n modulo 2^40. -/
def frameAfter (f n : Nat) : Nat :=
  let x := (f + 1) / 2 ^ 40 * 2 ^ 40 + n
  if x ≤ f then x + 2 ^ 40 else x

/-- Frame numbers that firmware holds, moved with a load of the frame counter at frame f; AT_FRAME stays. -/
def Dev.renumber (d : Dev) (f new : Nat) : Dev :=
  let g := fun (x : Nat) => if f ≤ x then ((x : Int) + new - f).toNat else x
  let h := fun (x : Nat) => ((x : Int) + new - f).toNat
  let d1 := d.onTb fun t =>
    { t with
      frame := new
      walk := t.walk.map fun w => { w with from_ := h w.from_ }
      commits := t.commits.map fun c => (frameAfter new (c.1 % 2 ^ 40), c.2) }
  let d2 := d1.onSurvey fun s =>
    { s with leadIn := s.leadIn.map g, frames := s.frames.modify 0 fun i => { i with frame := new } }
  let d3 := d2.updChans fun _ x => { x with frames := x.frames.map fun r => if r.frame = f then { r with frame := new } else r,
                                            inLines := x.inLines.map fun e => if e.frame = f then { e with frame := new } else e }
  let d4 := d3.onGs fun s => { s with transitions := s.transitions.map fun x => (g x.1, x.2) }
  let d5 := d4.onFw fun w =>
    { w with
      deferred := w.deferred.map fun e => { e with tick := g e.tick }
      check := w.check.map fun r => { r with first := h r.first }
      levels := w.levels.map fun r => { r with stepFrom := h r.stepFrom } }
  let d6 := d5.onChart fun c => { c with renders := c.renders.map fun r => { r with due := g r.due } }
  d6.onCal fun c =>
    { c with
      deskew := c.deskew.map fun r => { r with first := h r.first }
      run := c.run.map fun r => { r with first := h r.first, limit := h r.limit, fc := r.fc.map h, deskewAt := r.deskewAt.map h } }

/-- The move of ALIGN_APPLY at the tick just past (R141, R178): both counters, then the frame counter and the anchor
of the next tick. -/
def Dev.alignMove (d : Dev) : Dev :=
  match d.tb.align.move with
  | none => d
  | some m =>
    let k := d.tb.k
    let d1 := d.move m.delta 1
    let c1 := (d1.tb.tickCount / 2 ^ k + 1) * 2 ^ k
    let n := (((m.upFrame : Int) + ((c1 : Int) - m.upCount) / (2 ^ k : Nat)) % (2 ^ 40 : Nat)).toNat
    let f1 := frameAfter d1.tb.frame n
    let d2 := (d1.markFrame fun i => { i with length := c1 - d1.tb.tickCount }).renumber d1.tb.frame (f1 - 1)
    let d3 := d2.onTb fun t =>
      { t with
        anchorFrame := f1
        anchorCount := c1
        anchorK := k
        syncAligned := true
        refPhase := if t.cfg.refSrc = 1 then toGrid (t.refPhase - m.delta) t.cfg.period else t.refPhase
        walk := if t.cfg.refSrc = 1 then t.walk.map fun w =>
            { w with rest := toGrid (t.refPhase - m.delta) t.cfg.period - (t.refPhase - w.rest) }
          else t.walk
        align := { t.align with move := none, misaligned := false, markerSeen := true } }
    d3.log 0x7 (k * 65536 + c1 / 2 ^ 48 % 65536) d3.tb.frame (c1 % 2 ^ 48 : Nat)

end Sys2Proof.Machine
end

