-- ==== Sys2Proof/Machine/Partitions.lean ====
section
/-! DEFINITION. Partitions alone: RESET_PARTITION, what a reset, a power-down and a power-up do to the block and its
neighbours, and the return (01 R11, R12, 02 R31, 12 R303, 13 R322, 16 R376 to R381). -/

namespace Sys2Proof.Machine

/-! ## Commands that end with what they worked on (R303, R315, R377) -/

/-- The command of this slot is under way. -/
def Dev.slotBusy (d : Dev) (s : Nat) : Bool := (d.slot s).busy

/-- Input checks and searches whose command is gone: at the next tick the channels take their own settings again, and
their switches the pin (R18, R47). -/
def Dev.dropChecks (d : Dev) : Dev :=
  let d1 := match d.fw.check with
    | some r =>
      if d.slotBusy r.slot then d else d.onFw fun w => { w with check := none, restores := w.restores ++ r.channels.map fun c => (c, false) }
    | none => d
  let d2 := match d1.fw.levels with
    | some r =>
      if d1.slotBusy r.slot then d1
      else
        let held := r.chans.filter fun (l : LevelSearch) => !l.skipped && r.step != 0
        d1.onFw fun w => { w with levels := none, restores := w.restores ++ held.map fun (l : LevelSearch) => (l.ch, true) }
    | none => d1
  match d2.cal.deskew with
  | some r => if r.ofCalibrate || d2.slotBusy r.slot then d2 else d2.deskewDrop r
  | none => d2

/-- CALIBRATE whose command is gone. -/
def Dev.dropCalibrate (d : Dev) : Dev :=
  match d.cal.run with
  | some r =>
    if r.startUp || d.slotBusy r.slot then d
    else
      let d1 := match d.cal.deskew with
        | some k => if k.ofCalibrate then d.deskewDrop k else d
        | none => d
      (d1.onCal fun c => c.withoutRun d.tb.frame).onGs fun g =>
        { g with op := if g.op = .calibrating then .ready else g.op }
  | none => d

/-- Triangulation and Atlas work whose command is gone. -/
def Dev.dropRest (d : Dev) : Dev :=
  let live := fun (s : Nat) => d.slotBusy s
  let d1 := d.onAlign fun a =>
    { a with measure := a.measure.filter fun m => live m.slot, apply := a.apply.filter fun x => live x.1 }
  let d2 := d1.onAtlas fun a =>
    let o := a.opening.filter fun o => match o.slot with
      | some s => live s
      | none => true
    { a with st := if a.opening.isSome && o.isNone then .closed else a.st, opening := o
             formatting := a.formatting.filter fun x => live x.slot
             scrubs := a.scrubs.filter fun x => match x.slot with
               | some s => live s
               | none => true
             fences := a.fences.filter fun x => live x.1
             reads := a.reads.filter fun x => live x.slot }
  let d3 := d2.onChart fun c =>
    { c with change := c.change.map fun m => { m with slot := m.slot.filter live } }
  (d3.onCap fun c =>
    { c with traverses := c.traverses.map fun t => { t with resizes := t.resizes.filter fun r => live r.slot } }).onFw fun w =>
    { w with partRuns := w.partRuns.map fun r => { r with slot := r.slot.filter live }
             selfTests := w.selfTests.filter fun r => live r.slot }

/-- What firmware works on without a command to work for is dropped. -/
def Dev.dropOrphans (d : Dev) : Dev := d.dropChecks.dropCalibrate.dropRest

/-- The commands of these slots fail, and what they worked on is dropped. -/
def Dev.failSlots (d : Dev) (slots : List Nat) (f : Fail) : Dev :=
  (d.each slots fun e s => e.reply s (.fail f)).dropOrphans

/-- Every slot but one that is not free, DONE or FAILED fails with E_PART_RESET when COMPASS goes (R303). -/
def Dev.failAll (d : Dev) (but : Nat) : Dev :=
  let open_ := (List.range 16).filter fun s => s != but && ((d.slot s).st == .posted || (d.slot s).busy)
  (d.onHost fun h => { h with queue := [] }).failSlots open_ (failObj ePartReset 0xFFF 11 partCompass)

/-! ## Deferred changes of a bank (R31) -/

/-- The parts of first..last that lie outside bank b. -/
def outsideBank (b first last : Nat) : List (Nat × Nat) :=
  [(first, min last (8 * b - 1)), (max first (8 * b + 8), last)].filter fun r =>
    decide (r.1 ≤ r.2) && (decide (r.2 < 8 * b) || decide (8 * b + 8 ≤ r.1))

/-- An effect without what it would do to the channels of bank b. -/
def Effect.withoutBank (b : Nat) : Effect → List Effect
  | .channel f l c => (outsideBank b f l).map fun r => .channel r.1 r.2 c
  | .levels f l sa sb ta ha tb hb => (outsideBank b f l).map fun r => .levels r.1 r.2 sa sb ta ha tb hb
  | .thrA c t h a => if bankOf c = b then [] else [.thrA c t h a]
  | .loadSettings k s skip => [.loadSettings k s (b :: skip)]
  | e => [e]

/-- Accepted changes of a bank's channels are discarded. -/
def Firmware.withoutBank (w : Firmware) (b : Nat) : Firmware :=
  { w with deferred := w.deferred.flatMap fun e => (e.effect.withoutBank b).map fun x => { e with effect := x } }

/-! ## Entry (R376, R379, R380) -/

/-- Blocks of R417 that start again: the frame in progress and the one before are still to be judged, and do not count. -/
def HealthBlock.restarted : HealthBlock := { HealthBlock.reset with skip := 2 }

/-- The marks of R417 cleared, and the blocks restarted. -/
def Channel.unmarked (x : Channel) : Channel :=
  { x with lines := x.lines.map fun l => { l with marked := false }, health := HealthBlock.restarted }

/-- A comparator and switches as a reset leaves them (R31). -/
def Channel.bankReset (x : Channel) : Channel :=
  { x.unmarked with
           cfg := ChanCfg.reset, a := Comparator.reset, b := Comparator.reset, switch := .pin, mode := .quad,
           prescale := 0, pulse := none, heldB := false, levels := none }

/-- An FE bank stops. -/
def Dev.enterFe (d : Dev) (b : Nat) : Dev :=
  (d.updChans fun c x =>
    if bankOf c = b then
      x.bankReset.updRec d.tb.frame fun r => { r with bankDown := true, unsettledA := true, unsettledB := true }
    else x).onFw fun w => w.withoutBank b

/-- STAMP stops: the edges in it are gone, the frame is OVERRUN, and the marks of R417 are cleared. -/
def Dev.enterStamp (d : Dev) : Dev :=
  (d.updChans fun _ x => { x.unmarked with inLines := [], fifo := [], assembled := [] }).markFrame fun i =>
    { i with lateAll := true, noStamps := true }

/-- The work that is in progress, of the frame before the one in progress, is lost. -/
def Dev.markWork (d : Dev) (f : FrameInfo → FrameInfo) : Dev :=
  d.onSurvey fun s => { s with frames := s.frames.modify 1 f }

def Dev.enterSurvey (d : Dev) (g : Nat) : Dev :=
  d.markWork fun i => { i with lateGroups := if g ∈ i.lateGroups then i.lateGroups else g :: i.lateGroups }

/-- CHART stops: registers, legend and renders are gone. -/
def Dev.enterChart (d : Dev) : Dev := d.onChart Chart.afterReset

/-- A partition stops. -/
def Dev.enterPart (d : Dev) (p : Nat) : Dev :=
  if p < 12 then d.enterFe p
  else if p = partStamp then d.enterStamp
  else if p < 44 then d.enterSurvey (p - 13)
  else if p = partChart then d.enterChart
  else if p = partCapture then (d.onChart Chart.abandon).each d.ring.jobs fun e _ => e.copyDone
  else if 46 ≤ p ∧ p < 54 then (d.onAtlas fun a => a.channelDown (p - 46)).runFlash
  else if p = partHost then d.each d.ring.jobs fun e _ => e.copyDone
  else d

/-- Slots of the running commands that need a partition. HOST's is UPDATE_FIRMWARE (`State.afterHost`), and COMPASS ends them all
(`Dev.failAll`). -/
def Dev.slotsUsing (d : Dev) (p : Nat) : List Nat :=
  if partHost ≤ p then [] else
  let bank := fun (chs : List Nat) => p == partStamp || chs.any fun c => bankOf c == p
  (d.fw.check.toList.filter fun r => bank r.channels).map CheckRun.slot ++
  (d.fw.levels.toList.filter fun r => r.chans.any fun l => bankOf l.ch == p).map LevelRun.slot ++
  (d.cal.run.toList.filter fun r => !r.startUp && bank r.channels).map CalRun.slot ++
  (d.cal.deskew.toList.filter fun r => !r.ofCalibrate && bank r.named).map DeskewRun.slot ++
  (if p = partChart then (d.cap.chart.change.bind ModeChange.slot).toList else []) ++
  ((d.atlas.reads.filter fun r => p == partCapture || (d.atlas.readChannels r).any fun c => partAtlas c == p).map
    AtlasRead.slot) ++
  ((d.atlas.scrubs.filter fun r => r.left.any fun n => partAtlas (d.atlas.channelOf n) == p).filterMap ScrubRun.slot) ++
  (if (populated d.atlas.targets).any fun c => partAtlas c == p then
    ((d.atlas.opening.bind AtlasOpening.slot).toList ++ (d.atlas.formatting.map AtlasFormat.slot).toList) else [])

/-- The generation moves on, PART_RESET_SEEN is set, and the run log has a record. `action` is coded as in R192. -/
def Dev.partEvent (d : Dev) (p action : Nat) : Dev :=
  let d1 := (d.updPart p fun x => { x with gen := x.gen + 1 }).setFlag flagPartReset
  d1.log 0xB (p + action * 64) d.tb.frame ((d1.part p).gen.toNat : Int)

/-- A partition enters reset alone (action 0, or 3 for a hold by the Watch domain), or is powered down (1). -/
def Dev.stopPart (d : Dev) (p action : Nat) : Dev :=
  let using_ := d.slotsUsing p
  let d1 := (d.updPart p fun x => if action = 1 then { x with down := true } else { x with inReset := true }).partEvent p action
  let d2 := match d1.partFault p with
    | some f => d1.failSlots using_ f
    | none => d1
  d2.enterPart p

/-! ## RESET_PARTITION (R322, R381) -/

/-- A traverse, map, chart buffer or sample history is defined. -/
def Dev.storeInUse (d : Dev) : Bool :=
  !d.cap.traverses.isEmpty || !d.cap.maps.isEmpty || !d.committedMaps.isEmpty || !d.cap.chart.buffers.isEmpty ||
    !d.survey.histPages.isEmpty

/-- An action on this partition is in progress. -/
def Dev.partBusy (d : Dev) (p : Nat) : Bool := d.fw.partRuns.any fun r => r.part == p

/-- The refusals of R381. A partition that is being powered down is down, and POWER_UP of it waits for the end of that with E_BUSY
(DESIGN CHOICE, log 195). -/
def Dev.partActionFault (d : Dev) (p action : Nat) : Option Fail :=
  let x := d.part p
  let idle := d.gs.op == .ready || d.gs.op == .safe || d.gs.op == .fault
  firstFail [(p == partMeridian, failPlain eState), (x.inReset, failPlain eBusy),
    (action == 0 && x.down, failObj ePartDown 0xFFF 11 p), (action == 2 && d.partBusy p, failPlain eBusy),
    (action == 1 && !x.down && (p == partStamp || p == partCapture) && !idle, failPlain eBusy),
    (action == 1 && !x.down && p == partCapture && d.storeInUse, failPlain eBusy)]

/-- The powered-down store forgets: its words, the result store in it (R305), and of sheets that wait (R277) all that is not
copied yet (DEDUCED, log 177). -/
def Dev.forget (d : Dev) (p : Nat) : Dev :=
  if p = partCapture then
    ((d.onCap fun c => { c with mem := [], poisoned := [] }).onSurvey fun s => { s with store := [] }).onAtlas fun a =>
      { a with sheets := a.sheets.map fun s => if a.waits s then s.blanked a.begun else s }
  else d

def Dev.partAction (d : Dev) (c : Cmd) : Dev × Reply :=
  let p := c.f 1 35 30
  let action := c.f 1 1 0
  let gen := fun (e : Dev) => [w36 (e.part p).gen.toNat]
  let run := fun (e : Dev) (slot : Option Nat) => e.onFw fun w => { w with partRuns := w.partRuns ++ [⟨p, slot, action⟩] }
  d.check (d.partActionFault p action) fun e =>
    if (action = 1 ∧ (e.part p).down) ∨ (action = 2 ∧ !(e.part p).down) then (e, .ok (gen e))
    else if p = partCompass then (run (e.stopPart p 0) none, .ok [w36 ((e.part p).gen + 1).toNat])
    else
      let e1 :=
        if action = 0 then e.stopPart p 0
        else if action = 1 then (e.stopPart p 1).forget p
        else (e.updPart p fun x => { x with down := false, inReset := true }).partEvent p 2
      ((run e1 (some c.slot)).progress c.slot 500, .running)

def mbResetPartition : MbCommand :=
  onDev (form 0x003 [1]) (fun _ => [[(35, 30), (1, 0)]])
    (fun c => faultsOf [(1, decide (56 < c.f 1 35 30) || c.f 1 1 0 == 3 ||
      (c.f 1 1 0 == 1 && (c.f 1 35 30 == partHost || c.f 1 35 30 == partCompass)))]) Dev.partAction

/-! ## PARTITION_READY (R380) -/

/-- A line of a stamp path that returns: its histograms restart empty (R86), and its mark of R417 is gone. -/
def Line.restarted (x : Line) : Line :=
  { x with hist := [], histCount := 0, complete := none, obs := [], cand := none, marked := false }

/-- What a partition does on its return. -/
def Dev.returnPart (d : Dev) (p : Nat) : Dev :=
  if p < 12 then
    d.updChans fun c x =>
      if bankOf c = p then { x.bankReset with lostTotal := 0, lastLoss := 0, stampCheckTotal := 0, disagreeTotal := 0 } else x
  else if p = partStamp then d.updChans fun _ x => { x with lines := x.lines.map Line.restarted, fifoAt := d.tb.now, health := HealthBlock.restarted }
  else if p = partCompass then d.serveUnknown
  else if p = partCapture then d.runFlash
  else if 46 ≤ p ∧ p < 54 then (d.onAtlas fun a => a.channelUp (p - 46)).runFlash
  else d

/-- The Watch domain holds the partition in reset (R389). -/
def Dev.heldByHw (d : Dev) (p : Nat) : Bool := d.fw.hwHeld && (decide (13 ≤ p ∧ p < 44) || p == partChart)

/-- PARTITION_READY: an action in progress on the partition completes. -/
def Dev.partReady (d : Dev) (p : Nat) : Dev :=
  match d.fw.partRuns.find? fun r => r.part == p && (r.action == 1 || !d.heldByHw p) with
  | none => d
  | some r =>
    let d1 := d.onFw fun w => { w with partRuns := w.partRuns.filter fun x => x.part != p }
    let d2 := if r.action = 1 then d1 else (d1.updPart p fun x => { x with inReset := false }).returnPart p
    match r.slot with
    | some s => d2.reply s (.ok [w36 (d2.part p).gen.toNat])
    | none => d2

def execPartitionReady (part : Nat) (s : State) : Host.Outcome State Fault Refusal := doneDev s (s.dev.partReady part)

end Sys2Proof.Machine
end

