-- ==== Sys2Proof/Machine/Faults.lean ====
section
/-! DEFINITION. Entry into FAULT and SAFE and the way out, and the events that cause them: the coarse counters, lock
windows, heat, supplies, stuck partitions and memory errors (02 R52, 03 R78, 05 R115 to R117, 12 R315, 16 R382 to
R389). -/

namespace Sys2Proof.Machine

/-! ## Fault codes (R382) -/

def faultCoarse : Nat := 0x01
def faultMeridian : Nat := 0x02
def faultThermal : Nat := 0x03
def faultThermalHw : Nat := 0x04
def faultSupply : Nat := 0x05
def faultNoFirmware : Nat := 0x10
def faultWatchdog : Nat := 0x11
def faultStuck : Nat := 0x12
def faultEccStorm : Nat := 0x13
def faultCalStore : Nat := 0x14

/-- Left only by PERST_N or power-on reset. -/
def hardFault (code : Nat) : Bool := code != faultMeridian && code != faultThermal

/-! ## Entry (R383, R315) -/

/-- The run ends: gates are abandoned, and nothing of it is published at a later tick. -/
def Dev.endRunNow (d : Dev) : Dev :=
  (d.onSurvey fun s =>
    { s with inRun := false, leadIn := none, histPages := []
             items := s.items.map fun r => { r with phase := .idle, asserted := [] }
             frames := s.frames.map fun i => { i with unpublished := false } }).onGs fun g => { g with transitions := [] }

/-- Every comparator in PARK, every switch at the pin (R52). -/
def Dev.parkAll (d : Dev) : Dev := d.updChans fun _ x => x.parkIn d.tb.now d.tb.frame

/-- PENDING traverses freeze where their commits stand, in ascending number; no traverse takes a later frame of the run, and
a RESIZE_TRAVERSE that waited for a commit is decided. -/
def Dev.freezeAll (d : Dev) : Dev :=
  let nums := d.cap.traverses.map Traverse.num
  let d1 := d.each nums fun e n => e.freezeTraverse n (((e.traverse n).map Traverse.committed).getD 0)
  (d1.onCap fun c =>
    { c with traverses := (c.traverses.filter fun t => decide (t.from_ ≤ d.tb.frame)).map fun t =>
        { t with next := max t.next (d.tb.frame + 1)
                 waits := t.waits.filter fun w => match w.2 with
                   | .now .. => false
                   | _ => true } }).each nums Dev.resizeDue

/-- A command is legal in a state, by its opcode alone. -/
def opLegal (s : OpState) (opcode : Nat) : Bool := decide (s ∈ legalStates opcode false)

/-- Deferred effects of commands that are not legal in the new state are discarded. -/
def Dev.dropDeferred (d : Dev) (s : OpState) : Dev :=
  let d1 := d.onFw fun w => { w with deferred := w.deferred.filter fun e => opLegal s e.opcode }
  let d2 := d1.onTb fun t => { t with pendingK := none, commits := [], bearings := [] }
  let d3 := d2.onAlign fun a => { a with pendingArm := none, move := none }
  let d4 := d3.onCal fun c => { c with pendingFreeze := none }
  (d4.onRing fun r => { r with pendingCfg := none }).onAtlas fun a => { a with pendingPolicy := none }

/-- Commands under way that are not legal in the new state fail. -/
def Dev.failIllegal (d : Dev) (s : OpState) : Dev :=
  let slots := (List.range 16).filter fun i => (d.slot i).busy && !(d.cmdOf i).legalIn s
  d.failSlots slots (failPlain eState)

/-- What the device does on entry to FAULT or SAFE. -/
def Dev.enterDead (d : Dev) (s : OpState) : Dev :=
  let d1 := ((d.endRunNow.failIllegal s).dropDeferred s).parkAll.freezeAll.closeReadings
  let d2 := d1.onGs fun g => { g with op := s }
  d2.when (s = .fault) fun e => (e.setFlag flagFault).msix 32

/-- Gazetteer work and firmware loads go on without their command, but for what is kept. A store that writes goes on (R373);
of an update the write that has begun does, and the slot stays invalid (R359, R374). -/
def State.orphanWork (s : State) (keepStore keepUpdate : Bool) : State :=
  let job := match s.watch.gaz.job with
    | some (.store slot b k e) => some (NvmJob.store (if keepStore then slot else none) b k e)
    | some (.update slot b i n) => some (if keepUpdate then NvmJob.update slot b i n else NvmJob.update none b i 0)
    | none => none
  { s with
    watch := { s.watch with gaz := { s.watch.gaz with job := job },
                            holdup := s.watch.holdup.map fun h => { h with store := if keepStore then h.store else none } }
    boot := { s.boot with update := if keepUpdate then s.boot.update else none } }

/-- The work of commands that are not legal in the new state ends (R315). -/
def State.dropWork (s : State) (o : OpState) : State := s.orphanWork (opLegal o 0x801) (opLegal o 0x803)

/-- A cause of FAULT or SAFE (R383, R384). -/
def State.enterFault (s : State) (code : Nat) : State :=
  let toFault := decide (code < 0x10)
  let o := if toFault || s.dev.gs.op == .fault then OpState.fault else .safe
  let s1 := if s.dev.gs.op = o then s else { s.dropWork o with dev := s.dev.enterDead o }
  { s1 with dev := s1.dev.onGs fun g => { g with faultCode := code, hardExit := hardFault code || s.dev.gs.hardExit } }

/-- Exit to READY, once no cause since entry stands in the way. -/
def Dev.leaveFault (d : Dev) : Dev :=
  if d.gs.op = .fault ∧ !d.gs.hardExit ∧ !d.fw.relock ∧ !d.fw.thermal then d.onGs fun g => { g with op := .ready } else d

/-- The tick at which a MERIDIAN_LOSS fault ends. -/
def Dev.relockTick (d : Dev) : Dev :=
  if d.fw.relock ∧ d.tb.meridian.locked ∧ d.cal.startDone then (d.onFw fun w => { w with relock := false }).leaveFault else d

/-! ## The coarse counters (R78) -/

/-- COARSE_MISMATCH: the check counter holds something else. -/
def State.coarseMismatch (s : State) : State :=
  if s.watch.perstN && s.dev.tb.running then
    let u := s.dev.nextFree
    let d := u.2.onTb fun t => { t with coarseCheck := BitVec.ofNat 48 (Config.unstated u.1) }
    { s with dev := d }.enterFault faultCoarse
  else s

def execCoarseMismatch (s : State) : Host.Outcome State Fault Refusal := done s.coarseMismatch

/-! ## Lock windows (R115 to R117) -/

/-- Frame 0 as the counters start. -/
def firstFrame (d : Dev) : FrameInfo :=
  { frame := 0, k := d.tb.k, tick := 0, length := 2 ^ d.tb.k, gated := false, stretch := 0, runFrom := 0, leadIn := false, inRun := false,
    cold := !d.tb.warm, unlocked := false, holdover := d.tb.holdover, refStep := false, adapted := false, moved := false,
    lateGroups := [], lateAll := !d.partUp partStamp, lateness := 0, noStamps := !d.partUp partStamp, gen := d.gs.gen,
    epoch := d.gs.epochs, selChanged := [], trig := [], forced := [], unpublished := true }

/-- The counters start, and frame 0 opens (R58, R116, R177, R178). -/
def Dev.startCounters (d : Dev) : Dev :=
  let d1 := (d.onTb fun t =>
    { (t.advance 0) with running := true, frame := 0, tickCount := 0, anchorFrame := 0, anchorCount := 0, anchorK := t.k })
  let d2 := d1.onSurvey fun s => { s with frames := [firstFrame d1] }
  ((d2.updChans fun c x => { x with frames := [FrameRec.opening 0 x (d2.partUp (bankOf c))] }).log 0x7 (d.tb.k * 65536) 0
    0).pulse 346

/-- The loops of the other ADPLLs open or close (R117). -/
def Dev.openLoops (d : Dev) (b : Bool) : Dev :=
  d.onTb fun t => { t with engine := { t.engine with openLoop := b }, store := { t.store with openLoop := b },
                           chart := { t.chart with openLoop := b } }

/-- Lock is declared. At the first lock of the Meridian the counters start, and the other ADPLLs acquire; at a later one
their loops close. -/
def Dev.declareLock (d : Dev) (p : Adpll) : Dev :=
  let x := d.tb.pll p
  let d1 := d.onTb fun t => t.setPll p { x with locked := true, reacquiring := false }
  match p with
  | .meridian => if d.tb.running then d1.openLoops false else d1.startCounters.each [.engine, .store, .chart] Dev.acquire
  | .chart => d1.chartLocked
  | _ => d1

/-- Lock of the Meridian is lost at a coarse count: source 347, and FAULT. The outputs end their high phases from then
(R136). -/
def State.loseMeridian (s : State) (cc : Nat) : State :=
  let d := ((((s.dev.onTb fun t =>
    { t with meridian := { t.meridian with locked := false, reacquiring := true }, syncAligned := false,
             clkLive := t.clkLive.map fun x => x.loseMeridian ((max t.now cc * 4096 : Nat) : Int) }).acquire .meridian).openLoops true)).pulse 347
  let d1 := d.markFrame fun i => { i with unlocked := true }
  let d2 := (d1.onFw fun w => { w with relock := true }).onCal fun c =>
    { (if c.run.any CalRun.startUp then c.withoutRun d1.tb.frame else c) with startDone := false }
  { s with dev := d2 }.enterFault faultMeridian

/-- Lock of another ADPLL is lost. The Chart domains stop, and the display is blank until a frame starts again (R135). -/
def Dev.loseLock (d : Dev) (p : Adpll) : Dev :=
  let x := d.tb.pll p
  let d1 := (((d.stopOutputs (adpllCode p) false).onTb fun t =>
      { (t.setPll p { x with locked := false, reacquiring := true }) with lastLoss := adpllCode p }).acquire p).pulse
    (if p = .chart then 351 else 350)
  d1.when (p = .chart) fun e => e.onChart fun c => { c with scanning := false, resumeDue := c.resumeDue || c.scanning }

/-- The lock counter of an ADPLL at the end of a window. -/
def Dev.counted (d : Dev) (p : Adpll) (count : Nat) : Dev := d.onTb fun t => t.setPll p { t.pll p with count := count }

/-- LOCK_WINDOW_END: an ADPLL whose loop is open is not judged (R117). -/
def State.lockWindow (s : State) (p : Adpll) (count cc : Nat) : State :=
  let off := ((count : Int) - s.dev.lockTarget p).natAbs
  let x := s.dev.tb.pll p
  let t := { s with dev := s.dev.counted p count }
  if !s.watch.perstN then s
  else if x.openLoop then t
  else if off ≤ 2 ∧ !x.locked then { t with dev := t.dev.declareLock p }
  else if 64 < off ∧ x.locked then (if p = .meridian then t.loseMeridian (min cc s.dev.frameEnd) else { t with dev := t.dev.loseLock p })
  else t

def execLockWindowEnd (pll : Adpll) (count at_ : Nat) (s : State) : Host.Outcome State Fault Refusal :=
  done (s.lockWindow pll count at_)

/-! ## Heat (R266, R389) -/

/-- The hottest of the sensors in 0.125 °C. -/
def hottest (temps : List Int) : Int := (minMax temps).2

/-- Shedding begins above 100.0 °C and ends after 100 evaluations at or below 97.0 °C. -/
def Dev.shedding (d : Dev) (t : Int) : Dev :=
  let n := if t ≤ 776 then d.fw.coolShed + 1 else 0
  let d1 := d.onFw fun w => { w with coolShed := n }
  if 800 < t ∧ !d.cap.chart.shed then ((d1.onChart fun c => c.setShed true).setFlag flagThermal).pulse 368
  else if d.cap.chart.shed ∧ 100 ≤ n then d1.onChart fun c => c.setShed false
  else d1

/-- Firmware runs, so that it evaluates the sensors: in BOOT from its start on (R361 step 6). -/
def Dev.evaluates (d : Dev) : Bool := d.tb.running && (d.gs.op != .boot || d.fw.started) && d.partUp partCompass

/-- The frame in progress reaches a multiple of 2,500,000 that is not evaluated yet, or a move has passed one. Multiples are
those of the extended count (DESIGN CHOICE, log 142). -/
def Dev.thermalDue (d : Dev) : Bool := d.evaluates && decide ((d.fw.thermalAt + 1) * 2500000 < d.frameEnd)

/-- At a tick, multiples that came while firmware was not there to evaluate them are past. -/
def Dev.thermalTick (d : Dev) : Dev :=
  d.when (!d.evaluates) fun e => e.onFw fun w => { w with thermalAt := max w.thermalAt ((e.tb.tickCount - 1) / 2500000) }

/-- THERMAL_EVALUATION: two evaluations in a row above 108.0 °C enter FAULT; 10 s at or below 95.0 °C leave it. -/
def State.thermal (s : State) (temps : List Int) : State :=
  if !s.watch.perstN || !s.dev.thermalDue then s
  else
    let t := hottest temps
    let d := s.dev.onFw fun w =>
      { w with temps := temps, thermalAt := w.thermalAt + 1, hotBefore := decide (864 < t)
               coolFault := if t ≤ 760 then w.coolFault + 1 else 0 }
    let d1 := d.shedding t
    if 864 < t ∧ s.dev.fw.hotBefore ∧ !s.dev.fw.thermal then
      let e := ((d1.onFw fun w => { w with thermal := true, coolFault := 0 }).setFlag flagThermal).pulse 368
      { s with dev := e }.enterFault faultThermal
    else
      let cool := d1.fw.thermal && decide (10000 ≤ d1.fw.coolFault)
      let d2 := d1.when cool fun e => e.onFw fun w => { w with thermal := false }
      { s with dev := d2.when (cool && !s.boot.running) Dev.leaveFault }

def execThermalEvaluation (temps : List Int) (s : State) : Host.Outcome State Fault Refusal := done (s.thermal temps)

/-- THERMAL_HW: FAULT 0x04, and the Watch domain holds the Survey groups and CHART in reset: those that are in reset already,
and those that are powered up later, do not leave it. -/
def State.thermalHw (s : State) : State :=
  if s.watch.perstN && s.watch.powered then
    let held := ((List.range 31).map partSurvey ++ [partChart]).filter fun p => s.dev.partUp p
    let d := s.dev.each held fun e p => e.stopPart p 3
    { s with dev := d.onFw fun w => { w with hwHeld := true } }.enterFault faultThermalHw
  else s

def execThermalHw (s : State) : Host.Outcome State Fault Refusal := done s.thermalHw

/-! ## Supplies (R382) -/

/-- SUPPLY_FAULT: one of monitors 0 to 7 has reported BELOW or ABOVE for 10 µs. -/
def State.supplyFault (s : State) (m : Nat) : State :=
  let x := s.watch.monitors.getD m externalMonitor
  if s.watch.perstN && decide (m < 8) && (x.state == 1 || x.state == 2) then s.enterFault faultSupply else s

def execSupplyFault (m : Nat) (s : State) : Host.Outcome State Fault Refusal := done (s.supplyFault m)

/-! ## A partition that does not come back (R380) -/

/-- PARTITION_STUCK: SAFE with code 0x12; the command that waits for the partition fails with it still in reset. -/
def State.partStuck (s : State) (p : Nat) : State :=
  match s.dev.fw.partRuns.find? fun r => r.part == p && r.action != 1 with
  | none => s
  | some r =>
    let d := s.dev.onFw fun w => { w with partRuns := w.partRuns.filter fun x => x.part != p }
    let d1 := match r.slot with
      | some i => d.reply i (.fail (failObj ePartReset 0xFFF 11 p))
      | none => d
    { s with dev := d1 }.enterFault faultStuck

def execPartitionStuck (part : Nat) (s : State) : Host.Outcome State Fault Refusal := done (s.partStuck part)

/-! ## Memory errors (R386 to R388) -/

/-- Corrected errors: counted, and source 373 at most once a millisecond. -/
def Dev.eccCorrected (d : Dev) (n : Nat) : Dev :=
  if n = 0 then d
  else
    let now := d.tb.now
    let quiet := d.fw.eccRaised.any fun t => decide (t ≤ now ∧ now < t + 2500000)
    let d1 := d.onFw fun w => { w with eccCorrected := clampU 32 (w.eccCorrected + n), eccRaised := if quiet then w.eccRaised else some now }
    d1.when (!quiet) fun e => e.pulse 373

/-- The edge that the stamp path was reading a line's table for is a check loss: the oldest that holds a code of it. One
made off the pin is gone without being a lost edge (R82). -/
def Dev.tableLoss (d : Dev) (ch line : Nat) : Dev :=
  let x := d.chan ch
  let hit := fun (e : Edge) => e.codes.any fun k => k.line == line
  match (x.assembled ++ x.fifo).find? hit with
  | none => d
  | some e =>
    let y := if x.assembled.any hit then { x with assembled := x.assembled.eraseP hit } else { x with fifo := x.fifo.eraseP hit }
    let f := d.frameOfCc e.readAt
    (d.updChan ch fun _ => y.lose f (b2n e.atPin) true).lateLoss f (b2n e.atPin)

/-- A read through BAR2 finds an uncorrectable word: it completes poisoned with all ones and is reported through AER, and
the word stays so until it is written (R224). -/
def Dev.poisonedRead (d : Dev) (a : Nat) : Dev :=
  ((d.onCap fun c => { c with poisoned := if a ∈ c.poisoned then c.poisoned else a :: c.poisoned }).onHost fun h =>
    { h with aerCount := h.aerCount + 1, readValue := BitVec.ofNat 64 (2 ^ 36 - 1) }).pulse 342

/-- What an uncorrectable error does where it lies. -/
def Dev.eccEffect (d : Dev) : EccPlace → Dev
  | .tableEntry ch line => d.tableLoss ch line
  | .reducerSum ch => d.updChan ch fun x => x.updRec d.tb.frame fun r => { r with saturated := true }
  | .surveyMemory g => d.enterSurvey g
  | .compassMemory => d.markWork fun i => { i with lateAll := true }
  | .captureWord a => d.poisonedRead a
  | .resultRing => d.onRing fun r => { r with damaged := r.damaged || !r.jobs.isEmpty }
  | .atlasStaging seq w => d.onAtlas fun a => a.cutBad w fun s => s.isStaged && s.seq == seq
  | .traverseWord n w => d.onAtlas fun a => a.cutBad w fun s => s.type == shTraverse && s.source == n
  | .gazetteer _ => d
  | .otherSram => d

/-- The fault that an uncorrectable error leads to, with the storm's times. -/
def Dev.eccFault (d : Dev) : EccPlace → Option Nat
  | .surveyMemory _ => if 16 < d.fw.eccTimes.length then some faultEccStorm else none
  | .compassMemory => if 16 < d.fw.eccTimes.length then some faultEccStorm else none
  | .gazetteer o => if regionAt o = some .calibration ∨ blockAt o = some .identity then some faultCalStore else none
  | _ => none

/-- One more error of the storm of R382: those of the last second are kept. -/
def Dev.countStorm (d : Dev) : Dev :=
  d.onFw fun w => { w with eccTimes := d.tb.now :: w.eccTimes.filter fun t => decide (d.tb.now < t + 2500000000) }

/-- The errors that count towards the storm. -/
def Dev.eccStorm (d : Dev) : EccPlace → Dev
  | .surveyMemory _ => d.countStorm
  | .compassMemory => d.countStorm
  | _ => d

/-- What an uncorrectable error makes invalid in the Gazetteer (R355). -/
def Gazetteer.eccSpoils (g : Gazetteer) : EccPlace → Gazetteer
  | .gazetteer o => g.spoil o
  | _ => g

/-- ECC_ERROR. -/
def State.eccError (s : State) (place : EccPlace) (corrected : Bool) : State :=
  if !s.watch.perstN then s
  else if corrected then { s with dev := s.dev.eccCorrected 1 }
  else
    let d := (s.dev.onFw fun w => { w with eccUncorrectable := clampU 32 (w.eccUncorrectable + 1) }).pulse 373
    let d1 := (d.eccEffect place).eccStorm place
    let t := { s with dev := d1, watch := { s.watch with gaz := s.watch.gaz.eccSpoils place } }
    match d1.eccFault place with
    | some c => t.enterFault c
    | none => t

def execEccError (place : EccPlace) (corrected : Bool) (s : State) : Host.Outcome State Fault Refusal :=
  done (s.eccError place corrected)

/-- MEMORY_SCRUB: the words found with one wrong bit are corrected and counted; nothing else changes (R387). -/
def execMemoryScrub (corrected : Nat) (s : State) : Host.Outcome State Fault Refusal :=
  doneDev s (if s.watch.perstN then s.dev.eccCorrected corrected else s.dev)

end Sys2Proof.Machine
end

