-- ==== Sys2Proof/Machine/Routes.lean ====
section
/-! DEFINITION. Trigger routes and TRIG lines: their settings, edges on the lines, firing and its actions (06 R153, 08
R218 to R222, 13 R332). -/

namespace Sys2Proof.Machine

def lineIn : Nat := 1
def lineOut : Nat := 2

def Dev.route (d : Dev) (r : Nat) : Route := d.survey.routes.getD r Route.reset
def Dev.trigLine (d : Dev) (l : Nat) : TrigLine := d.survey.lines.getD l TrigLine.reset

def Dev.updTrig (d : Dev) (l : Nat) (f : TrigLine → TrigLine) : Dev :=
  d.onSurvey fun s => { s with lines := s.lines.modify l f }

def Dev.updRoute (d : Dev) (r : Nat) (f : Route → Route) : Dev :=
  d.onSurvey fun s => { s with routes := s.routes.modify r f }

/-- Source 374 + t follows the level at the ball (R218). -/
def Dev.ballLevel (d : Dev) (l : Nat) (on : Bool) : Dev := (d.updTrig l fun x => { x with level := on }).level (374 + l) on

/-! ## Settings (R218) -/

/-- A route's settings, its counts kept. -/
def Route.set (old new : Route) : Route :=
  { new with firings := old.firings, suppressed := old.suppressed, last := old.last }

/-- A line's settings; pulses go on only where it stays an output. -/
def TrigLine.set (old new : TrigLine) : TrigLine :=
  let stays := old.dir == lineOut && new.dir == lineOut
  { new with level := old.level, due := if stays then old.due else [], ends := if stays then old.ends else none }

/-- Settings at their tick; an output that is not in a pulse stands inactive. -/
def Dev.applyRoutes (d : Dev) (routes : List (Nat × Route)) (lines : List (Nat × TrigLine)) : Dev :=
  let d1 := d.each routes fun e x => e.updRoute x.1 fun r => r.set x.2
  d1.each lines fun e x =>
    let e1 := e.updTrig x.1 fun t => t.set x.2
    let t := e1.trigLine x.1
    e1.when (t.dir == lineOut && t.ends.isNone && t.level != t.activeLow) fun y => y.ballLevel x.1 t.activeLow

/-- Routes and lines with every accepted change. -/
def Dev.committedRoutes (d : Dev) : List Route :=
  d.fw.deferred.foldl (fun l e => match e.effect with
    | .routes rs _ => rs.foldl (fun m x => m.set x.1 x.2) l
    | .loadSettings _ s _ => s.routes
    | _ => l) d.survey.routes

def Dev.committedLines (d : Dev) : List TrigLine :=
  d.fw.deferred.foldl (fun l e => match e.effect with
    | .routes _ ls => ls.foldl (fun m x => m.set x.1 x.2) l
    | .loadSettings _ s _ => s.lines
    | _ => l) d.survey.lines

def Cmd.routeNums (c : Cmd) : List Nat := maskList 8 (c.f 1 7 0)
def Cmd.lineNums (c : Cmd) : List Nat := maskList 8 (c.f 1 15 8)

/-- Word of the first field of the i-th named route, and of the j-th named line. -/
def routeWord (i : Nat) : Nat := 2 + 2 * i
def Cmd.lineWord (c : Cmd) (j : Nat) : Nat := 2 + 2 * c.routeNums.length + j

def Cmd.route (c : Cmd) (i : Nat) : Route :=
  let w := routeWord i
  { srcTrig := BitVec.ofNat 8 (c.f w 35 28), srcForce := c.b w 27, out := BitVec.ofNat 8 (c.f w 26 19), atlas := c.b w 18,
    holdoff := c.f (w + 1) 20 0, firings := 0, suppressed := 0, last := none }

def Cmd.trigLine (c : Cmd) (j : Nat) : TrigLine :=
  let w := c.lineWord j
  { dir := c.f w 35 34, activeLow := c.b w 33, outDly := c.f w 31 16, pulse := c.f w 15 0, level := false, due := [],
    ends := none }

def Cmd.newRoutes (c : Cmd) : List (Nat × Route) := c.routeNums.zipIdx.map fun x => (x.1, c.route x.2)
def Cmd.newLines (c : Cmd) : List (Nat × TrigLine) := c.lineNums.zipIdx.map fun x => (x.1, c.trigLine x.2)

/-- Reserved encodings, and a COUNT that does not match the masks. -/
def Cmd.routeFaults (c : Cmd) : List Nat :=
  faultsOf ([(0, c.count != 1 + 2 * c.routeNums.length + c.lineNums.length)] ++
    (c.newRoutes.zipIdx.map fun x => (routeWord x.2 + 1, decide (2 ^ 20 < x.1.2.holdoff))) ++
    c.newLines.zipIdx.map fun x => (c.lineWord x.2, x.1.2.dir == 3 || decide (x.1.2.pulse < 25)))

def Cmd.routeLayout (c : Cmd) : List (List (Nat × Nat)) :=
  [(15, 0)] :: (c.routeNums.flatMap fun _ => [[(35, 18)], [(20, 0)]]) ++ c.lineNums.map fun _ => [(35, 33), (31, 0)]

/-- A line in OUT of two routes, or an OUT line whose DIR is not OUT. -/
def badOut (rs : List Route) (ls : List TrigLine) (l : Nat) : Bool :=
  let n := (rs.filter fun r => bit r.out l).length
  decide (1 < n) || (n == 1 && (ls.getD l TrigLine.reset).dir != lineOut)

/-- The first word that the command sets and that the resulting configuration refuses. -/
def Dev.routeFail (d : Dev) (c : Cmd) : Option Fail :=
  let rs := c.newRoutes.foldl (fun m x => m.set x.1 x.2) d.committedRoutes
  let ls := c.newLines.foldl (fun m x => m.set x.1 x.2) d.committedLines
  let words := (c.newRoutes.zipIdx.filter fun x => (List.range 8).any fun l => bit x.1.2.out l && badOut rs ls l).map
      (fun x => routeWord x.2) ++
    (c.newLines.zipIdx.filter fun x => badOut rs ls x.1.1).map fun x => c.lineWord x.2
  (leastFault words).map fun w => failAt eParam w

def mbSetTriggerRoute : MbCommand :=
  onDev (form 0x902 (range2 2 25)) Cmd.routeLayout Cmd.routeFaults fun d c =>
    match d.routeFail c with
    | some f => (d, .fail f)
    | none => d.deferNext c (.routes c.newRoutes c.newLines) []

def execSetTriggerRoute (slot : SlotId) (s : State) : Host.Outcome State Fault Refusal := done (s.accept slot mbSetTriggerRoute)

/-! ## Events on the lines (R153, R220) -/

/-- TRIG_EDGE: an edge at a ball that the Naset does not drive; an input's is assigned to the frame of the coarse cycle
in which the synchroniser's output changes. -/
def Dev.trigEdge (d : Dev) (l : Nat) (high : Bool) (now : Nat) : Dev :=
  let t := d.trigLine l
  if t.dir = lineOut ∨ t.level = high then d
  else
    let d1 := d.ballLevel l high
    if t.dir != lineIn then d1
    else
      let f := d.frameOfCc now
      d1.onSurvey fun s =>
        { s with frames := s.frames.map fun i => if i.frame == f then { i with trig := i.trig ++ [(l, high)] } else i }

def execTrigEdge (line : Nat) (high : Bool) (nowCc : Nat) (s : State) : Host.Outcome State Fault Refusal :=
  doneDev s (s.dev.trigEdge line high nowCc)

/-- TRIG_OUT_ACTIVE: the first firing that waits drives its line, or lengthens the pulse under way. -/
def Dev.trigActive (d : Dev) (l : Nat) : Dev :=
  let t := d.trigLine l
  match t.due with
  | [] => d
  | x :: rest =>
    if t.dir = lineOut then
      (d.updTrig l fun y => { y with due := rest, ends := some (x + y.pulse) }).ballLevel l (!t.activeLow)
    else d

def execTrigOutActive (line : Nat) (s : State) : Host.Outcome State Fault Refusal := doneDev s (s.dev.trigActive line)

def Dev.trigInactive (d : Dev) (l : Nat) : Dev :=
  let t := d.trigLine l
  if t.dir = lineOut ∧ t.ends.isSome then (d.updTrig l fun y => { y with ends := none }).ballLevel l t.activeLow else d

def execTrigOutInactive (line : Nat) (s : State) : Host.Outcome State Fault Refusal := doneDev s (s.dev.trigInactive line)

/-! ## FORCE_TRIGGER (R222) -/

def mbForceTrigger : MbCommand :=
  onDev (form 0x903 [1]) (fun _ => [[(7, 0)]]) (fun _ => []) fun d c =>
    (d.markFrame fun i => { i with forced := i.forced ++ maskList 8 (c.f 1 7 0) }, .deferred (d.forcedFrame + 2) [])

def execForceTrigger (slot : SlotId) (s : State) : Host.Outcome State Fault Refusal := done (s.accept slot mbForceTrigger)

/-! ## Firing (R219, R220) -/

/-- What fires a route for a frame: items that asserted, TRIG inputs, FORCE. -/
structure Causes where
  items : List Nat
  trig : Bool
  force : Bool
  deriving DecidableEq, Repr

def Causes.any (c : Causes) : Bool := !c.items.isEmpty || c.trig || c.force

/-- Routes that FORCE_TRIGGER named for frame n: in the frame itself, or in the lead-in frame before it. -/
def Dev.forcedFor (d : Dev) (info : FrameInfo) : List Nat :=
  info.forced ++ (match d.info (info.frame - 1) with
    | some p => if p.leadIn then p.forced else []
    | none => [])

def Dev.causes (d : Dev) (w : Worked) (r : Nat) : Causes :=
  let x := d.route r
  let f := w.info.frame
  { items := (w.items.filter fun i => i.covers f && i.item.kind == kMasktest && i.item.route == r && decide (f ∈ i.asserted)).map
      fun i => i.num
    trig := w.info.trig.any fun e => bit x.srcTrig e.1 && e.2 != (d.trigLine e.1).activeLow
    force := x.srcForce && decide (r ∈ d.forcedFor w.info) }

/-- A TRIGGER sheet (R273). -/
def triggerSheet (r : Nat) (x : Route) (n : Nat) (c : Causes) : NewSheet :=
  { type := shTrigger, source := r, frame := n, first := n
    body := [word [(7, 0, x.out.toNat), (8, 8, b2n c.force), (9, 9, b2n c.trig)], w36 c.items.length] ++ c.items.map w36,
    cuts := [] }

/-- A firing's pulses at the tick just past. -/
def Dev.fireRoute (d : Dev) (r n : Nat) : Dev :=
  let x := d.route r
  let d1 := d.updRoute r fun y => { y with firings := y.firings + 1, last := some n }
  d1.each (maskList 8 x.out.toNat) fun e l => e.updTrig l fun t => { t with due := t.due ++ [d.tb.tickCount + 32 + t.outDly] }

/-- The freezes of the routes that fire for frame n, in ascending traverse number. -/
def Dev.fireTraverses (d : Dev) (routes : List Nat) (n : Nat) : Dev :=
  d.each d.cap.traverses fun e t =>
    match t.arm with
    | some (r, pre, post) =>
      if r ∈ routes then e.fireTraverse t n pre post ((d.route r).atlas && e.atlas.isOpen && e.atlas.policy.saveFrozen) else e
    | none => e

/-- Every route decided for the frame worked: those that fire act; TRIGGER sheets come before CONTOUR sheets, and those before
TRAVERSE sheets (R277). -/
def Dev.fireRoutes (d : Dev) (w : Option Worked) : Dev :=
  match w with
  | none => d
  | some w =>
    let n := w.info.frame
    if !w.info.gated then d
    else
      let hits := (List.range 8).filterMap fun r => let c := d.causes w r; if c.any then some (r, c) else none
      let held := fun (r : Nat) => match (d.route r).last with
        | some m => decide (m < n ∧ n ≤ m + (d.route r).holdoff)
        | none => false
      let fires := hits.filter fun h => !held h.1
      let d1 := d.each (hits.filter fun h => held h.1) fun e h => e.updRoute h.1 fun y => { y with suppressed := y.suppressed + 1 }
      let d2 := d1.each fires fun e h => e.fireRoute h.1 n
      let saved := fires.filter fun h => (d.route h.1).atlas
      let d3 := d2.each saved fun e h => e.makeSheet (triggerSheet h.1 (d.route h.1) n h.2)
      let maps := d3.cap.maps.filter fun m => bit d3.atlas.policy.mapSave m.num
      let d4 := d3.each (maps.flatMap fun m => saved.map fun _ => m) fun e m => e.makeSheet (e.contourSheet m)
      d4.fireTraverses (fires.map fun h => h.1) n

end Sys2Proof.Machine
end

