-- ==== Sys2Proof/Machine/Gazetteer.lean ====
section
/-! DEFINITION. The Gazetteer: BOARD, settings banks, the hold-up measurement and firmware slots, with their commands
and the events that end them (13 R331, 15 R354 to R375, 17 R413). -/

namespace Sys2Proof.Machine

/-! ## BOARD (R356, R413) -/

/-- The instructions of the TAP (R412). -/
inductive TapInstr
  | extest | idcode | sample | extestPulse | extestTrain | gzBoard | bypass
  deriving DecidableEq, Repr

/-- The instruction of a code: every code outside the table acts as BYPASS. -/
def tapInstr (code : Byte) : TapInstr :=
  if code = 0x00 then .extest
  else if code = 0x01 then .idcode
  else if code = 0x02 then .sample
  else if code = 0x03 then .extestPulse
  else if code = 0x04 then .extestTrain
  else if code = 0x3C then .gzBoard
  else .bypass

/-- The TAP runs on VDD_AON and VDD_IO. -/
def Watch.tapRuns (w : Watch) : Bool := w.powered && w.railUp monitorIo

/-- What an instruction needs: the three EXTEST instructions every rail within its range. -/
def Watch.tapServes (w : Watch) (i : TapInstr) : Bool :=
  w.tapRuns && match i with
    | .extest => (List.range 8).all fun m => (w.monitor m).state == 0
    | .extestPulse => (List.range 8).all fun m => (w.monitor m).state == 0
    | .extestTrain => (List.range 8).all fun m => (w.monitor m).state == 0
    | _ => true

/-- GZ_BOARD_UPDATE: the instruction register holds GZ_BOARD, and Update-DR writes the block while PERST_N is asserted. -/
def Watch.boardUpdate (w : Watch) (bits : BitVec 512) : Watch :=
  if w.tapRuns then
    { w with tapIr := 0x3C, gaz := if w.perstPin then w.gaz else { w.gaz with board := bits, boardBad := false } }
  else w

def execGzBoardUpdate (bits : BitVec 512) (s : State) : Host.Outcome State Fault Refusal :=
  done { s with watch := s.watch.boardUpdate bits }

/-- What Capture-DR loads under the instruction that the TAP holds, with the register's width (R412, R413): IDCODE, the BOARD
block or BYPASS; none for the boundary register, whose cells the spec does not list (log 125). -/
def Watch.captureDr (w : Watch) : Option (Nat × BitVec 512) :=
  if !w.tapRuns then none
  else match tapInstr w.tapIr with
    | .idcode =>
      some (32, (lane [(31, 28, fld Config.siRev 3 0), (27, 12, 0x0960), (11, 1, 0x2B5), (0, 0, 1)]).setWidth 512)
    | .gzBoard => some (512, w.gaz.board)
    | .bypass => some (1, 0)
    | _ => none

/-! ## Banks (R367, R368) -/

/-- The newest valid bank: `true` is B. -/
def Gazetteer.newest (g : Gazetteer) : Option Bool :=
  match g.bankA, g.bankB with
  | none, none => none
  | some _, none => some false
  | none, some _ => some true
  | some a, some b => some (decide (a.sequence < b.sequence))

/-- The bank that STORE_SETTINGS writes. -/
def Gazetteer.target (g : Gazetteer) : Bool := g.newest == some false

/-- SEQUENCE of the next bank. -/
def Gazetteer.nextSequence (g : Gazetteer) : Nat :=
  ((g.newest.bind g.bank).map fun b => b.sequence + 1).getD 1

def Monitor.cfg (x : Monitor) : MonitorCfg :=
  { enable := x.enable, mode := x.mode, lo := x.lo, hi := x.hi, period := x.period, j := x.j }

/-- A route's settings without its counts. -/
def Route.settings (r : Route) : Route := { r with firings := 0, suppressed := 0, last := none }

/-- A line's settings without its level and pulses. -/
def TrigLine.settings (l : TrigLine) : TrigLine := { l with level := false, due := [], ends := none }

/-- The settings in force now. -/
def State.inForce (s : State) : Settings :=
  let d := s.dev
  { strict := d.gs.strict
    k := d.tb.k
    tb := d.tb.cfg
    spread := [d.tb.engine.spread, d.tb.store.spread, d.tb.chart.spread]
    tempStep := d.cal.tempStep
    slewGr := d.cal.slewGr
    steer := if d.tb.refLocked then d.tb.held else d.tb.steer
    chans := d.chans.map fun x => x.cfg
    deskew := d.chans.map fun x => x.deskew.map fun k => (k.intRise, k.intFall, k.fix)
    clkStaged := d.tb.clkStaged
    clkAuto := false
    routes := d.survey.routes.map Route.settings
    lines := d.survey.lines.map TrigLine.settings
    srcCfg := s.relay.sources.map Source.cfg
    floor := s.relay.floor
    watch := s.watch.entries
    monitors := s.watch.monitors.map Monitor.cfg
    autoOpen := false
    rbufPages := d.atlas.rbufPages }

/-- The settings that a bank takes (R371): those in force at the last tick, now where none has come, with the owners that the
bank is to hold and what the command and the last ATLAS_OPEN give. -/
def State.capture (s : State) (owner : Nat → Bool) (clkAuto autoOpen : Bool) : Settings :=
  let x := s.boot.atTick.getD s.inForce
  { x with srcCfg := x.srcCfg.mapNum fun n c => { c with hostOwned := owner n }
           clkAuto := clkAuto, autoOpen := autoOpen, rbufPages := s.dev.atlas.rbufPages }

/-! ## The hold-up measurement (R56, R372) -/

/-- HOLDUP_SENSE's voltage in mV for a code. -/
def holdupMv (code ratio : Nat) : Nat := code * 390625 * ratio / (256 * 10 ^ 6)

/-- The energy in µJ. -/
def holdupUj (cUf vMv vminMv : Nat) : Nat := cUf * (vMv * vMv - vminMv * vminMv) / 2000000

/-- What a store needs, twice over. -/
def holdupNeed : Nat := 4800

/-- The command starts a measurement, or takes the result of the one that runs. -/
def Watch.measure (w : Watch) (f : Holdup → Holdup) : Watch :=
  { w with holdup := some (f (w.holdup.getD { getSlots := [], store := none })), borrowTail := 0 }

/-- The response time of a monitor's mode in coarse cycles, rounded up (R54). -/
def Monitor.response (x : Monitor) : Nat := [5, 63, 2500, 30000].getD x.mode 30000

/-- Monitor 15 gets back its input and settings, and is not evaluated for its response time, over which it still counts as
borrowed (R56). The table has no row for the end of that time: it is the monitor's next MONITOR_EXCURSION, or the first
FRAME_TICK by which the time has passed, however late in a frame of `length` it began (DESIGN CHOICE, log 140). -/
def Watch.endBorrow (w : Watch) (length : Nat) : Watch :=
  if w.holdup.isSome then
    { w with holdup := none, borrowTail := length + (w.monitor 15).response }.updMonitor 15 fun x => { x with state := 3 }
  else w

/-- A command of this opcode is under way in the slot. -/
def Dev.underWay (d : Dev) (slot opcode : Nat) : Bool := (d.slot slot).busy && (d.cmdOf slot).opcode == opcode

/-- Energy is short: HOLDUP_LOW and source 370. -/
def Dev.holdupShort (d : Dev) : Dev := (d.setFlag flagHoldupLow).pulse 370

/-- The response of GET_HOLDUP. -/
def holdupWords (r : Nat × Nat × Nat × Nat) : List Word :=
  [w36 r.1, w36 r.2.1, w36 r.2.2.1, w36 r.2.2.2, w36 (b2n (holdupNeed ≤ r.2.1))]

/-- STORE_SETTINGS refused for want of energy. ENERGY stands at its place of the response, and the words before it are not
stated (R317, DESIGN CHOICE, log 19). -/
def Dev.storeRefused (d : Dev) (slot energy : Nat) : Dev :=
  let u := d.nextFree
  let v := u.2.nextFree
  v.2.reply slot (.fail { code := eHoldup, index := 0xFFF, detail := 0,
                          resp := [w36 (Config.unstated u.1), w36 (Config.unstated v.1), w36 energy] })

/-- The bank that firmware of a version writes. The bytes of its payload, and the number of its FORMAT, the spec leaves to
firmware (DESIGN CHOICE, log 150). -/
def newBank (version : BitVec 24) (sequence : Nat) (gen : BitVec 16) (x : Settings) (n : Nat) : Bank :=
  { magic := bankMagic, sequence := sequence, format := Config.formatOf version, gen := gen, crc := 0,
    payload := (Config.payload n).take 65472, writer := version, settings := x, bad := false : Bank }.sealed

/-- The energy suffices: the store of settings by firmware of a version chooses its target and its SEQUENCE (R371 step 3) and goes
on to its writes, with the target's MAGIC cleared (step 4). -/
def State.beginStore (s : State) (slot : Option Nat) (version : BitVec 24) (x : Settings) (energy : Nat) : State :=
  let g := s.watch.gaz
  let valid := g.readable version
  let u := s.dev.nextFree
  let bank := newBank version valid.nextSequence s.dev.gs.gen x u.1
  let cleared := g.setBank valid.target ((g.bank valid.target).map fun y => { y with magic := 0 })
  { s with dev := u.2, watch := { s.watch with gaz := { cleared with job := some (.store slot valid.target bank energy) } } }

/-- HOLDUP_MEASURED. -/
def State.holdupMeasured (s : State) (code : Nat) : State :=
  match s.watch.holdup with
  | none => s
  | some h =>
    let b := s.watch.gaz.board
    let v := holdupMv code (boardRatio b)
    let c := s.watch.gaz.holdupC
    let e := holdupUj c v (boardVmin b)
    let r := (v, e, c, boardVmin b)
    let s2 := { s with watch := { s.watch.endBorrow (2 ^ s.dev.tb.k) with holdupResult := r } }
    let d := s2.dev.when (e < holdupNeed) Dev.holdupShort
    let d1 := d.each (h.getSlots.filter fun i => d.underWay i 0x805) fun x i => x.reply i (.ok (holdupWords r))
    match h.store with
    | none => { s2 with dev := d1 }
    | some (i, version, x) =>
      let on := d1.underWay i 0x801
      if e < holdupNeed then { s2 with dev := d1.when on fun y => y.storeRefused i e }
      else { s2 with dev := d1.when on fun y => y.progress i 500 }.beginStore (if on then some i else none) version x e

def execHoldupMeasured (code : Nat) (s : State) : Host.Outcome State Fault Refusal := done (s.holdupMeasured code)

/-- GET_HOLDUP. -/
def mbGetHoldup : MbCommand :=
  onState (form 0x805 [0]) (fun _ => []) (fun _ => []) fun t c =>
    ({ t with watch := t.watch.measure fun h => { h with getSlots := h.getSlots ++ [c.slot] } }, .running)

def execGetHoldup (slot : SlotId) (s : State) : Host.Outcome State Fault Refusal := done (s.accept slot mbGetHoldup)

/-! ## STORE_SETTINGS and LOAD_SETTINGS (R370, R371) -/

/-- OWNER bit of a source in the command. -/
def Cmd.owner (c : Cmd) (n : Nat) : Bool := c.b (1 + n / 32) (n % 32)

/-- Words that give a source from 192 to 333 to the host. -/
def Cmd.ownerFaults (c : Cmd) : List Nat :=
  if c.b 0 22 then (range2 1 c.count).filter fun i => (List.range 32).any fun j => fixedOwner (32 * (i - 1) + j) && c.b i j else []

/-- OWNERS and COUNT do not go together. -/
def Cmd.ownerCountFault (c : Cmd) : Bool := c.b 0 22 != (c.count == 12)

def storeForm : Form := { opcode := 0x801, counts := [0, 12], options := [20, 21, 22], chunk := false }

def State.storeBody (t : State) (c : Cmd) : State × Reply :=
  if !t.watch.pwrFailN then (t, .fail (failPlain eHoldup))
  else if t.watch.gaz.job.isSome then (t, .fail (failPlain eBusy))
  else
    let owner := fun n =>
      if fixedOwner n then defaultHostOwned n
      else if c.b 0 22 then c.owner n else (t.relay.source n).cfg.hostOwned
    let x := t.capture owner (c.b 0 20) (c.b 0 21)
    ({ t with watch := t.watch.measure fun h => { h with store := some (c.slot, t.dev.gs.fwVersion, x) } }, .running)

def mbStoreSettings : MbCommand :=
  onState storeForm (fun _ => List.replicate 12 [(31, 0)])
    (fun c => (if c.ownerCountFault then [0] else []) ++ c.ownerFaults) State.storeBody

def execStoreSettings (slot : SlotId) (s : State) : Host.Outcome State Fault Refusal := done (s.accept slot mbStoreSettings)

/-- The bank that LOAD_SETTINGS names. -/
def Gazetteer.named (g : Gazetteer) (n : Nat) : Option (Bool × Bank) :=
  let which := if n = 0 then g.newest else some (n == 2)
  which.bind fun b => (g.bank b).map fun x => (b, x)

/-- The change of k comes with the settings, at the tick at which that k may apply. -/
def State.loadBody (t : State) (c : Cmd) : State × Reply :=
  match (t.watch.gaz.readable t.dev.gs.fwVersion).named (c.f 1 1 0) with
  | none => (t, .fail (failAt eNvm 1))
  | some (bankB, bank) =>
    let d := t.dev
    let k := bank.settings.k
    let tick := if k = d.tb.k then d.nextTick else d.tickOfK k
    let d1 := (d.onTb fun u => { u with pendingK := some { tick := tick, k := k, counts := false } }).defer tick 0x802
      (.loadSettings bankB bank.settings [])
    ({ t with dev := d1 }, .deferred tick [])

def mbLoadSettings : MbCommand :=
  onState (form 0x802 [1]) (fun _ => [[(1, 0)]]) (fun c => faultsOf [(1, c.f 1 1 0 == 3)]) State.loadBody

def execLoadSettings (slot : SlotId) (s : State) : Host.Outcome State Fault Refusal := done (s.accept slot mbLoadSettings)

/-- D_int and D_fix of a channel from a bank. -/
def Channel.loadDeskew (x : Channel) (l : List (Int × Int × Int)) : Channel :=
  { x with deskew := x.deskew.mapNum fun i k =>
      match l[i]? with
      | some v => { k with intRise := v.1, intFall := v.2.1, fix := v.2.2 }
      | none => k }

/-- A bank's settings of the device at a tick, but for k and for the channels' settings (R366, R370); the deskew of the FE banks
in `skip` stays (R31). A move that must wait for the next tick takes its policy with it. -/
def Dev.loadDevice (d : Dev) (x : Settings) (skip : List Nat) : Dev :=
  let d1 := (d.onGs fun g => { g with strict := x.strict }).applyTimebase x.tb
  let r := d1.applyRefPolicy x.tb.jump x.tb.slewRate
  let d2 := r.1.when r.2 fun e => e.defer e.nextTick 0x802 (.refPolicy x.tb.jump x.tb.slewRate)
  let d3 := d2.each x.spread.zipIdx fun e p => e.setSpread p.2 p.1
  let d4 := d3.onTb fun t => { t with steer := x.steer, integral := x.steer * 2 ^ 48, clkStaged := x.clkStaged }
  let d5 := d4.onCal fun c => { c with tempStep := x.tempStep, slewGr := x.slewGr }
  let d6 := d5.updChans fun n y => match x.deskew[n]? with
    | some l => if bankOf n ∈ skip then y else y.loadDeskew l
    | none => y
  d6.applyRoutes (x.routes.zipIdx.map fun p => (p.2, p.1)) (x.lines.zipIdx.map fun p => (p.2, p.1))

/-- A source's configuration from a bank. A host-owned source reaches no core (R336). -/
def SrcCfg.load (x : SrcCfg) (c : SrcCfg) (owner : Bool) : SrcCfg :=
  { c with hostOwned := if owner then c.hostOwned else x.hostOwned
           targets := if (if owner then c.hostOwned else x.hostOwned) then c.targets &&& 16 else c.targets }

/-- Firmware unmasks the sources that it owns when it takes them up at boot, so that those which it routes to H reach it (R336;
the moment DEDUCED, log 172). -/
def Source.taken (x : Source) : Source := { x with masked := x.masked && x.cfg.hostOwned }

/-- The bank's settings of the relay; the owners change only at boot. -/
def Relay.load (r : Relay) (x : Settings) (owner : Bool) : Relay :=
  { r with
    floor := x.floor
    sources := r.sources.mapNum fun n y =>
      let z := match x.srcCfg[n]? with
        | some c => { y with cfg := y.cfg.load c owner }
        | none => y
      if owner then z.taken else z }

/-- The bank's settings outside the device (R370); it becomes the active bank. -/
def State.loadRest (s : State) (bankB : Bool) (x : Settings) (owner : Bool) : State :=
  let s1 := { s with relay := s.relay.load x owner, boot := { s.boot with activeBankB := some bankB } }
  x.monitors.zipIdx.foldl (fun t m => t.setMonitor m.2 m.1) s1

/-! ## UPDATE_FIRMWARE (R374) -/

/-- The slot that SLOT names: `true` is B. -/
def State.updateSlot (s : State) (n : Nat) : Bool :=
  if n = 1 then false
  else if n = 2 then true
  else if s.boot.activeSlot = 1 then true
  else if s.boot.activeSlot = 2 then false
  else !decide (s.watch.gaz.actSeq false < s.watch.gaz.actSeq true)

/-- A slot as ACTIVE_SLOT codes it. -/
def slotCode (slotB : Bool) : Nat := if slotB then 2 else 1

def State.updateBody (t : State) (c : Cmd) : State × Reply :=
  let slotB := t.updateSlot (c.f 4 1 0)
  let bad := firstFail [(slotCode slotB == t.boot.activeSlot, failAt eParam 4)] <|> t.dev.partsFault [partHost]
    <|> firstFail [(!t.dev.canRequest, failPlain eLink), (t.watch.gaz.job.isSome, failPlain eBusy)]
  match bad with
  | some f => (t, .fail f)
  | none =>
    ({ t with dev := t.dev.onGs fun g => { g with before := g.op, op := .updating }
              boot := { t.boot with update := some (c.slot, slotB, c.f 3 18 0), cancelled := false } }, .running)

/-- SOURCE, LENGTH and SLOT. -/
def Cmd.imageFaults (c : Cmd) : List Nat :=
  faultsOf [(2, c.f 2 1 0 != 0), (3, c.f 3 18 0 == 0 || decide (393216 < c.f 3 18 0)), (4, c.f 4 1 0 == 3)]

def imageLayout : List (List (Nat × Nat)) := addr64Words ++ [[(18, 0)], [(1, 0)]]

def mbUpdateFirmware : MbCommand :=
  onState (form 0x803 [4]) (fun _ => imageLayout) Cmd.imageFaults State.updateBody

def execUpdateFirmware (slot : SlotId) (s : State) : Host.Outcome State Fault Refusal := done (s.accept slot mbUpdateFirmware)

/-- UPDATE_FIRMWARE finishes, and the state before it returns. -/
def State.endUpdate (s : State) (slot : Option Nat) (r : Reply) : State :=
  let d := s.dev.onGs fun g => { g with op := if g.op = .updating then g.before else g.op }
  let d1 := match slot with
    | some i => if d.underWay i 0x803 then d.reply i r else d
    | none => d
  { s with dev := d1, boot := { s.boot with update := none, cancelled := false } }

/-- The image has come for UPDATE_FIRMWARE: it is verified, and the slot's record is made invalid. -/
def State.updateImage (s : State) (slot : Nat) (slotB : Bool) (len : Nat) (image : Option Image) : State :=
  if s.boot.cancelled then s.endUpdate (some slot) (.fail (failPlain eCancelled))
  else match image with
    | none => s.endUpdate (some slot) (.fail (failPlain eLink))
    | some i =>
      if !s.watch.gaz.verifies i len then s.endUpdate (some slot) (.fail (failPlain eAuth))
      else
        let g := s.watch.gaz
        let g1 := { (g.setSlot slotB (g.fwSlot slotB).spoilt) with
          job := some (.update (some slot) slotB i (ceilDiv len 4096 + 1)) }
        { s with watch := { s.watch with gaz := g1 }, boot := { s.boot with update := none } }

/-! ## RESET_PARTITION and the commands of other slots (R303, R322, R377) -/

/-- A reset of COMPASS follows the DONE of its command; the other slots fail then, and what firmware worked on for them
ends. -/
def State.afterCompass (s t : State) (slot : Nat) : State :=
  if s.dev.partUp partCompass && !t.dev.partUp partCompass then { t with dev := t.dev.failAll slot }.orphanWork false false else t

/-- A reset of HOST ends the DMA read of UPDATE_FIRMWARE. -/
def State.afterHost (s t : State) : State :=
  match t.boot.update with
  | some u =>
    if s.dev.partUp partHost && !t.dev.partUp partHost then t.endUpdate (some u.1) (.fail (failObj ePartReset 0xFFF 11 partHost))
    else t
  | none => t

def execResetPartition (slot : SlotId) (s : State) : Host.Outcome State Fault Refusal :=
  let t := s.accept slot mbResetPartition
  done (s.afterHost (s.afterCompass t slot))

/-! ## GAZETTEER_WRITE_DONE (R359, R371, R374) -/

/-- A settings bank was written and read back. -/
def State.storeDone (s : State) (slot : Option Nat) (bankB : Bool) (bank : Bank) (energy : Nat) (good : Bool) : State :=
  let g := { s.watch.gaz with job := none }
  let g1 := if good then g.setBank bankB (some bank) else g
  let r : Reply :=
    if good then .ok [w36 (b2n bankB), w36 bank.sequence, w36 energy] else .fail (failPlain eNvm)
  let d := match slot with
    | some i => if s.dev.underWay i 0x801 then s.dev.reply i r else s.dev
    | none => s.dev
  { s with dev := d, watch := { s.watch with gaz := g1 } }

/-- A page of a slot, or its record, was written and read back; or a write that had begun when its command went (R355). -/
def State.pageDone (s : State) (slot : Option Nat) (slotB : Bool) (image : Image) (left : Nat) (good : Bool) : State :=
  let g := { s.watch.gaz with job := none }
  let s1 := { s with watch := { s.watch with gaz := g } }
  if left = 0 then s1
  else if !good then s1.endUpdate slot (.fail (failPlain eNvm))
  else if s.boot.cancelled ∧ 1 < left then s1.endUpdate slot (.fail (failPlain eCancelled))
  else if 1 < left then
    let d := match slot with
      | some i => s.dev.progress i (1000 - 1000 * (left - 1) / (ceilDiv image.length 4096 + 1))
      | none => s.dev
    { s with dev := d, watch := { s.watch with gaz := { g with job := some (.update slot slotB image (left - 1)) } } }
  else
    { s1 with watch := { s1.watch with gaz := g.setSlot slotB (FwSlot.written image) } }.endUpdate slot (.ok [])

def State.gazetteerWriteDone (s : State) (good : Bool) : State :=
  match s.watch.gaz.job with
  | some (.store slot bankB bank energy) => s.storeDone slot bankB bank energy good
  | some (.update slot slotB image left) => s.pageDone slot slotB image left good
  | none => s

def execGazetteerWriteDone (good : Bool) (s : State) : Host.Outcome State Fault Refusal := done (s.gazetteerWriteDone good)

end Sys2Proof.Machine
end

