-- ==== Sys2Proof/Machine/Boot.lean ====
section
/-! DEFINITION. Resets, the boot sequence, host loads, activation, the watchdog and the loss of power (01 R8, R11, 11
R287, 15 R352 to R375, 17 R405, R406). -/

namespace Sys2Proof.Machine

/-! ## What a reset leaves (R11, R31, R86, R311) -/

/-- The input levels that last through a reset: those of always-sensed sources that are no outputs of the Naset. -/
def Relay.inReset (r : Relay) (lines : List TrigLine) (monitors : Bool) : Relay :=
  { Relay.reset with sources := Relay.reset.sources.mapNum fun n x =>
      let stays := alwaysSensed n && (monitors || n < 352 || 367 < n) && ((lines.getD (n - 374) TrigLine.reset).dir != lineOut || n < 374)
      { x with level := stays && (r.source n).level } }

/-- D_pkg of the calibration store. -/
def Channel.factory (x : Channel) (l : List Int) : Channel :=
  { x with deskew := x.deskew.mapNum fun i k => { k with pkg := l.getD i 0 } }

/-- The Atlas journal as a reset leaves it, and the pins that it does not reach. -/
def Dev.inReset (d : Dev) (g : Gazetteer) : Dev :=
  { Dev.reset with
    gs := { Global.reset with free := d.gs.free }
    atlas := d.atlas.close
    tb := { TimeBase.reset with ocxoWarm := d.tb.ocxoWarm }
    fw := { Firmware.reset with temps := d.fw.temps }
    chans := Dev.reset.chans.mapNum fun n x => x.factory (g.dPkg.getD n [])
    survey :=
      { Survey.reset with lines := d.survey.lines.map fun l =>
          { TrigLine.reset with level := l.dir != lineOut && l.level } }
    cap := { Capture.reset with chart := { Chart.reset with hpd := d.cap.chart.hpd, sink := d.cap.chart.sink } } }

/-- A settings store goes on without its command (R373). Of a firmware update the write that has begun goes on, and no other
(R355): a page leaves the slot invalid, and the slot's record, which comes last, makes it valid (R359). -/
def Gazetteer.inReset (g : Gazetteer) : Gazetteer :=
  { g with job := match g.job with
    | some (.store _ bankB bank energy) => some (.store none bankB bank energy)
    | some (.update _ slotB image left) => some (.update none slotB image (if left = 1 then 1 else 0))
    | none => none }

/-- The main part in reset: every partition, the fabric and the relay's main part. -/
def State.mainReset (s : State) : State :=
  { s with
    dev := s.dev.inReset s.watch.gaz
    relay := s.relay.inReset s.dev.survey.lines true
    watch := { s.watch.endBorrow (2 ^ s.dev.tb.k) with perstN := false, held := false, gaz := s.watch.gaz.inReset }
    boot := Boot.reset }

def execPerstNAssert (s : State) : Host.Outcome State Fault Refusal :=
  done (if s.watch.perstN || s.watch.held then s.mainReset else s)

/-- Power goes, VDD_AON with it: what the Gazetteer was writing stays invalid, and the Watch domain stops and forgets
(R11, R350). -/
def State.powerLoss (s : State) : State :=
  let t := s.mainReset
  { t with
    dev := t.dev.onAtlas fun a => { a with unpowered := true }
    watch := { Watch.reset with powered := false, straps := t.watch.straps, pwrFailN := t.watch.pwrFailN,
                                       gaz := { t.watch.gaz with job := none } } }

def execPowerLoss (s : State) : Host.Outcome State Fault Refusal := done (if s.watch.powered then s.powerLoss else s)

/-- The release of power-on reset: everything at its reset value but the Gazetteer, the flash and the pins. -/
def State.powerOn (s : State) (straps : Straps) : State :=
  let g := { s.watch.gaz with job := none }
  let d := s.dev.inReset g
  { s with
    dev := { d with atlas := { d.atlas with powerHeld := !s.watch.pwrFailN } }
    relay := s.relay.inReset s.dev.survey.lines false
    watch := { Watch.reset with gaz := g, straps := straps, pwrFailN := s.watch.pwrFailN }
    boot := Boot.reset }

def execPowerOnReset (straps : Straps) (s : State) : Host.Outcome State Fault Refusal := done (s.powerOn straps)

/-! ## The choice of an image (R353, R362, R363) -/

/-- The slots that may boot: valid ones that have not failed in this boot. `true` is B. -/
def State.bootable (s : State) : List Bool :=
  [false, true].filter fun b => (s.watch.gaz.validImage b).isSome && !(if b then s.boot.failedB else s.boot.failedA)

/-- The valid slot with the higher ACT_SEQ; on a tie, A. -/
def State.bestSlot (s : State) : Option Bool :=
  match s.bootable with
  | [b] => some b
  | [_, _] => some (decide (s.watch.gaz.actSeq false < s.watch.gaz.actSeq true))
  | _ => none

/-- The image that BOOT_SRC chooses, as ACTIVE_SLOT codes it. -/
def State.chosenSlot (s : State) : Nat :=
  let src := s.watch.straps.bootSrc.toNat
  if src = 2 then 3
  else if src = 3 then 0
  else if src = 1 then (if false ∈ s.bootable then 1 else 0)
  else (s.bestSlot.map slotCode).getD 0

/-- The image of the slot that runs; none for the recovery image. -/
def State.image (s : State) : Option Image :=
  if s.boot.activeSlot = 3 then s.boot.hostImage
  else if s.boot.activeSlot = 0 then none
  else (s.watch.gaz.fwSlot (s.boot.activeSlot == 2)).image

/-! ## PERST_N_RELEASE (R352, R361, R405) -/

/-- Monitors 0 to 7 do not all report inside: one that is disabled or not evaluated reports nothing (R405; log 99). -/
def Watch.railsBad (w : Watch) : Bool :=
  !(List.range 8).all fun m => (w.monitor m).enable && (w.monitor m).state == 0

/-- The main part leaves reset when no rail stands in the way, and BOOT begins. -/
def State.mainReady (s : State) : State :=
  if s.watch.held && !s.watch.railsBad then
    let s1 := { s with watch := { s.watch with perstN := true, held := false } }
    let s2 := { s1 with dev := s1.dev.acquire .meridian, boot := { Boot.reset with running := true } }
    { s2 with boot := { s2.boot with activeSlot := s2.chosenSlot } }
  else s

def State.perstRelease (s : State) (straps : Straps) : State :=
  { s with watch := { s.watch with straps := straps, held := true } }.mainReady

def execPerstNRelease (straps : Straps) (s : State) : Host.Outcome State Fault Refusal :=
  done (if s.watch.powered && !s.watch.perstN && !s.watch.held then s.perstRelease straps else s)

/-- MONITOR_EXCURSION: the report (R54), and a main part held in reset by its rails goes on. -/
def execMonitorExcursion (m : Nat) (report : Fin 3) (s : State) : Host.Outcome State Fault Refusal :=
  done (s.monitorReports m report.val).mainReady

/-! ## Host load (R364) -/

/-- Engine, Store and Chart PLLs have locked after the Meridian (step 4 of R361). -/
def TimeBase.allLocked (t : TimeBase) : Bool :=
  t.running && t.meridian.locked && t.engine.locked && t.store.locked && t.chart.locked

/-- The ROM waits for a load: BOOT with BOOT_SRC = 0b10 after step 4, no image yet, no load under way. -/
def State.awaitsLoad (s : State) : Bool :=
  s.watch.perstN && s.boot.running && s.dev.gs.op == .boot && s.boot.activation.isNone && s.boot.activeSlot == 3 &&
    s.boot.hostImage.isNone && !s.boot.loading && s.dev.tb.allLocked

/-- The load failed: the fault word with its code, and the slot stays POSTED. -/
def Dev.loadFailed (d : Dev) (code : Nat) : Dev :=
  d.updSlot 0 fun x => { x with resp := x.resp.set 0 (word [(35, 24, 0xFFF), (23, 0, code)]), partialWords := 1 }

/-- The command posted for the load has the layout of UPDATE_FIRMWARE with SLOT = 0. -/
def Cmd.loadGood (c : Cmd) : Bool :=
  c.opcode == 0x803 && !(form 0x803 [4]).badHeader c && (reservedFaults c imageLayout).isEmpty && c.imageFaults.isEmpty &&
    c.f 4 1 0 == 0

/-- HOST_LOAD: the doorbell on slot 0 starts the DMA read. -/
def State.hostLoad (s : State) : State :=
  let x := s.dev.slot 0
  if s.awaitsLoad && x.st == .posted && x.partialWords == 0 then
    if !(s.dev.cmdOf 0).loadGood then { s with dev := s.dev.loadFailed eAuth }
    else if !s.dev.canRequest then { s with dev := s.dev.loadFailed eLink }
    else { s with boot := { s.boot with loading := true } }
  else s

/-- The image of a load is read and verified: PROGRESS shows it (log 104), and the command ends as BOOT does. -/
def State.loaded (s : State) (i : Image) : State :=
  { s with dev := s.dev.progress 0 500, boot := { s.boot with hostImage := some i, loadDone := true } }

def execHostLoad (s : State) : Host.Outcome State Fault Refusal := done s.hostLoad

/-- The image of a host load has come. -/
def State.loadImage (s : State) (image : Option Image) : State :=
  let t := { s with boot := { s.boot with loading := false } }
  match image with
  | none => { t with dev := s.dev.loadFailed eLink }
  | some i =>
    if s.watch.gaz.verifies i ((s.dev.cmdOf 0).f 3 18 0) then t.loaded i
    else { t with dev := s.dev.loadFailed eAuth }

/-- IMAGE_DMA_READ_DONE: for a host load or for UPDATE_FIRMWARE. -/
def State.imageRead (s : State) (image : Option Image) : State :=
  if s.boot.loading then s.loadImage image
  else match s.boot.update with
    | some u => s.updateImage u.1 u.2.1 u.2.2 image
    | none => s

def execImageDmaReadDone (image : Option Image) (s : State) : Host.Outcome State Fault Refusal := done (s.imageRead image)

/-! ## The settings at boot (R366, R369) -/

/-- Default owners (R335). -/
def Relay.defaultOwners (r : Relay) : Relay :=
  { r with sources := r.sources.mapNum fun n x => { x with cfg := { x.cfg with hostOwned := defaultHostOwned n } }.taken }

/-- Step 8 is due: firmware from an image runs, the PLLs are locked, and nothing is loaded yet. -/
def State.loadDue (s : State) : Bool :=
  s.boot.running && !s.boot.loaded && s.boot.activation.isNone && s.image.isSome && s.dev.tb.allLocked

/-- Firmware starts in BOOT (R361 step 6), as soon after step 4 as there is an image; the recovery image runs from the first tick
on. The table has no row for the start: it is the tick at which these hold (DESIGN CHOICE, log 115). -/
def State.startFirmware (s : State) : State :=
  if s.boot.running && s.boot.activation.isNone && (s.dev.tb.allLocked && s.image.isSome || s.boot.activeSlot == 0) then
    { s with dev := s.dev.onFw fun w => { w with started := true } }
  else s

/-- ER_WATCH is written at the first boot after a power-on reset only (R349). -/
def Watch.loadEntries (w : Watch) (entries : List WatchEntry) : Watch :=
  if w.watchLoaded then w else { w with entries := entries }

/-- The settings of the device from a bank at boot: the epoch stands as it is (R366). -/
def Dev.bootLoad (d : Dev) (bankB : Bool) (x : Settings) : Dev :=
  ((d.loadDevice x []).applyChannel (.loadSettings bankB x [])).adoptAll d.tb.tickCount (d.chans.map Channel.cfg)

/-- The SET_MONITOR fields at their reset values: all the settings that last through PERST_N (R11, R369). -/
def State.resetMonitors (s : State) : State :=
  (monitorsReset.map Monitor.cfg).zipIdx.foldl (fun t m => t.setMonitor m.2 m.1) s

/-- Every setting of R368 at its reset value. -/
def Settings.reset : Settings := State.reset.inForce

/-- With no valid bank every setting takes its reset value, also one that an image before had loaded from a bank (R369); no bank
is active. -/
def State.unsettled (s : State) : State :=
  let x := Settings.reset
  { s with dev := s.dev.bootLoad false x
           relay := (s.relay.load x true).defaultOwners
           watch := s.watch.loadEntries x.watch
           boot := { s.boot with activeBankB := none } }.resetMonitors

/-- The newest valid bank is loaded, or every setting takes its reset value. -/
def State.bootSettings (s : State) : State :=
  let s1 :=
    match (s.watch.gaz.readable ((s.image.map Image.version).getD 0)).named 0 with
    | none => s.unsettled
    | some (bankB, bank) =>
      let x := bank.settings
      { s with dev := s.dev.bootLoad bankB x
               watch := s.watch.loadEntries x.watch }.loadRest bankB x true
  { s1 with boot := { s1.boot with loaded := true }, watch := { s1.watch with watchLoaded := true } }

/-- The bank that is active, with its settings. -/
def State.activeSettings (s : State) : Option Settings :=
  s.boot.activeBankB.bind fun b => (s.watch.gaz.bank b).map Bank.settings

/-- The k of the bank is requested (R366). -/
def Dev.requestK (d : Dev) (k : Nat) : Dev :=
  if k = d.tb.k then d else d.onTb fun t => { t with pendingK := some { tick := d.tickOfK k, k := k, counts := false } }

/-! ## BOOT_END (R360, R364, R365, R369, R375) -/

/-- The version that runs, and COMPASS out of reset. -/
def State.firmwareUp (s : State) : State :=
  let v := match s.image with
    | some i => i.version
    | none => Config.recoveryVersion
  let d := (s.dev.onGs fun g => { g with fwVersion := v }).updPart partCompass fun x => { x with inReset := false }
  { s with dev := d, boot := { s.boot with running := false, activation := none } }

/-- READY of firmware from an image raises the counter. -/
def State.raiseRollback (s : State) : State :=
  match s.image with
  | some i => { s with watch := { s.watch with gaz := s.watch.gaz.raise i.svn } }
  | none => s

/-- The command of a host load that succeeded finishes before any other, in whatever state BOOT ends. -/
def State.finishLoad (s : State) : State :=
  let t := { s with boot := { s.boot with loadDone := false } }
  if s.boot.loadDone ∧ (s.dev.slot 0).st = .posted ∧ 0 ∈ s.dev.host.queue then
    { t with dev := (s.dev.onHost fun h => { h with queue := h.queue.filter (· != 0) }).finish 0 false eOk [] }
  else t

/-- CLK_AUTO: the four outputs commit at the tick that ends BOOT. -/
def Dev.clkAuto (d : Dev) : Dev :=
  d.each (List.range 4) fun e o => e.commitOutput o (d.tb.clkStaged.getD o Clkout.reset)

/-- AUTO_OPEN: the journal opens with RBUF_PAGES of the bank. -/
def Dev.autoOpen (d : Dev) (pages : Nat) : Dev :=
  match firstFit (d.runs none) pages with
  | some page =>
    if d.atlas.formatted && (firstBadTarget d.atlas.targets).isNone &&
        (d.partsFault (partCapture :: (populated d.atlas.targets).map partAtlas)).isNone then
      (d.onCap fun x => { x with rbuf := some (page, pages) }).onAtlas fun a => a.beginOpen none a.targets
    else d
  | none => d

/-- What the active bank has firmware do at the end of BOOT. -/
def State.autoStart (s : State) : State :=
  match s.activeSettings with
  | none => s
  | some x =>
    let d := (s.dev.when x.clkAuto Dev.clkAuto).when x.autoOpen fun e => e.autoOpen x.rbufPages
    { s with dev := d }

/-- The state that BOOT ends in. -/
def State.enter (s : State) (o : OpState) : State := { s with dev := s.dev.onGs fun g => { g with op := o } }

/-- Posted commands whose opcode is in no table end now that firmware serves. -/
def State.serve (s : State) : State := { s with dev := s.dev.serveUnknown }

/-- The end of BOOT with the recovery image, which loads no bank: the owners are the default ones unless a bank was loaded before
an activation, and the cause of R365 joins those of a FAULT or SAFE entered during BOOT (R382, R384). It counts as the
first boot of R349. -/
def State.recover (s : State) : State :=
  let up := s.firmwareUp
  { up with
    relay := if s.boot.loaded then up.relay else up.relay.defaultOwners
    watch := { up.watch with watchLoaded := true } }.enterFault faultNoFirmware

/-- BOOT_END at a tick, all PLLs being locked (step 4 of R361). FAULT or SAFE entered during BOOT is not left by it. -/
def State.bootEnd (s : State) : State :=
  let up := s.firmwareUp
  if s.boot.activeSlot = 0 then s.recover.finishLoad.serve
  else if s.dev.gs.op != .boot then (if s.boot.loaded || s.boot.activation.isSome then up.finishLoad.serve else s)
  else match s.boot.activation with
    | some o => (if o = .ready then (up.enter o).raiseRollback else up.enter o).serve
    | none =>
      if s.boot.loaded && s.dev.cal.startDone then ((up.enter .ready).raiseRollback.autoStart.finishLoad).serve else s

def execBootEnd (s : State) : Host.Outcome State Fault Refusal :=
  done (if s.watch.perstN && s.boot.running && s.dev.tb.running && (s.boot.activeSlot != 0 || s.dev.tb.allLocked) then
    s.bootEnd else s)

/-! ## ACTIVATE_FIRMWARE (R375) -/

def State.activateBody (t : State) (c : Cmd) : State × Reply :=
  let slotB := c.f 1 1 0 == 2
  let g := t.watch.gaz
  if (g.validImage slotB).isNone then (t, .fail (failAt eAuth 1))
  else if g.job.isSome then (t, .fail (failPlain eBusy))
  else
    let seq := max (g.actSeq false) (g.actSeq true) + 1
    let g1 := g.setSlot slotB ((g.fwSlot slotB).activated seq)
    ({ t with
       dev := (t.dev.stopPart partCompass 0).onGs fun x => { x with before := t.dev.judged, op := .updating }
       watch := { t.watch with gaz := g1 }
       boot := { t.boot with running := true, activeSlot := slotCode slotB, failedA := false, failedB := false,
                             activation := some t.dev.judged, previous := t.boot.activeSlot, update := none } }, .ok [])

/-- BOOT begins at the reset of COMPASS by an activation (R312). -/
def State.activated (s t : State) : State :=
  if s.dev.partUp partCompass && !t.dev.partUp partCompass then
    { t with dev := t.dev.onGs fun x => { x with op := .boot, fwVersion := 0 } }
  else t

def mbActivateFirmware : MbCommand :=
  onState (form 0x804 [1]) (fun _ => [[(1, 0)]]) (fun c => faultsOf [(1, c.f 1 1 0 == 0 || c.f 1 1 0 == 3)])
    State.activateBody

def execActivateFirmware (slot : SlotId) (s : State) : Host.Outcome State Fault Refusal :=
  done (s.activated (s.afterCompass (s.accept slot mbActivateFirmware) slot))

/-! ## WATCHDOG (R363, R382) -/

/-- The image that runs is marked as failed in this boot. -/
def Boot.failed (b : Boot) : Boot :=
  { b with failedA := b.failedA || b.activeSlot == 1, failedB := b.failedB || b.activeSlot == 2, hostImage := none }

/-- What the next image does anew, the one before having done it: steps 6, 8 and 9, for which the Graticule is at k = 16 (R361,
R366; DEDUCED, log 194). -/
def Dev.bootAgain (d : Dev) : Dev :=
  (((d.onTb fun t => { t with pendingK := none }).requestK 16).onFw fun w => { w with started := false }).onCal fun c =>
    { (if c.run.any CalRun.startUp then c.withoutRun d.tb.frame else c) with startDone := false }

/-- The next image: after an activation the one that ran before, else the other slot, else recovery. -/
def State.restart (s : State) : State :=
  let t := { s with boot := s.boot.failed }
  let back := s.boot.previous
  let next :=
    if s.boot.activation.isSome && back != s.boot.activeSlot && back != 3 && back != 0 && decide ((back == 2) ∈ t.bootable) then back
    else if s.boot.activation.isSome && back == 0 then 0
    else (t.bestSlot.map slotCode).getD 0
  let again := s.boot.activation.isNone
  { t with dev := t.dev.when again Dev.bootAgain, boot := { t.boot with
      activeSlot := next
      loaded := t.boot.loaded && !again
      activeBankB := if again then none else t.boot.activeBankB } }

/-- Firmware runs, so the watchdog can fire. -/
def State.dogArmed (s : State) : Bool :=
  s.watch.perstN && s.dev.tb.running && (if s.boot.running then s.image.isSome else s.dev.partUp partCompass)

def State.watchdog (s : State) : State :=
  let t := { s with dev := s.dev.pulse 383 }
  if s.boot.running then t.restart else t.enterFault faultWatchdog

def execWatchdog (s : State) : Host.Outcome State Fault Refusal := done (if s.dogArmed then s.watchdog else s)

end Sys2Proof.Machine
end

