-- ==== Sys2Proof/Machine/Survey.lean ====
section
/-! DEFINITION. The survey commands: items, coefficient sets and masks, ARM and START with their checks, HOLD, RESUME
and STOP, READ_READINGS, SET_RESULT_RING, GET_BUDGET and GET_STATE (06, 07, 08, 12 R306 to R314, 13 R322, R325, R326,
R332). -/

namespace Sys2Proof.Machine

/-! ## DEFINE_ITEM and DELETE_ITEM (R144 to R147, R200, R201, R205, R249, R306, R325) -/

/-- The configuration with item n defined as i. -/
def withItem (l : List (Nat × Item)) (n : Nat) (i : Item) : List (Nat × Item) := itemsAfter l (.item n i)

/-- The load that a changed configuration would produce exceeds the budget of a run in progress (R185). -/
def Dev.overBudget (d : Dev) (items : List (Nat × Item)) : Bool :=
  d.judged.running && decide (900 < d.load items d.nextTick)

/-- The checks of DEFINE_ITEM against the committed configuration. -/
def Dev.defineItemFail (d : Dev) (n : Nat) (i : Item) : Option Fail :=
  let all := d.committedItems
  let others := all.filter fun x => x.1 != n
  let new := withItem all n i
  firstFail [
    (otherChannel all i, failAt eParam 2), (badReference all i, failAt eParam 14),
    (i.kind == kFiltered && decide (i.coefSet < 32) && !i.saturateOk && !guardOk (d.committedTaps i.coefSet) i.inMax,
      failAt eParam 14),
    (limitExceeded (others.map fun x => x.2) i, failPlain eResource),
    (i.channels.any fun c => d.hasEye (partnerOf c), failAt eResource 2),
    (decide (2 ^ 20 < totalWords new), failPlain eResource),
    (d.overBudget new, failPlain eBudget)]

def mbDefineItem : MbCommand :=
  onDev { opcode := 0x302, counts := [21], options := [20], chunk := false } (fun _ => itemLayout)
    (fun c => c.item.faults c) fun d c =>
    let n := c.f 1 35 26
    d.check (d.defineItemFail n c.item) fun e =>
      e.deferNext c (.item n c.item) [w36 c.item.words, w36 (totalWords (withItem e.committedItems n c.item))]

def execDefineItem (slot : SlotId) (s : State) : Host.Outcome State Fault Refusal := done (s.accept slot mbDefineItem)

def mbDeleteItem : MbCommand :=
  onDev (form 0x303 [1]) (fun _ => [[(35, 26)]]) (fun _ => []) fun d c =>
    let n := c.f 1 35 26
    if d.committedItems.any fun x => x.1 == n then d.deferNext c (.deleteItem n) [] else (d, .fail (failAt eParam 1))

def execDeleteItem (slot : SlotId) (s : State) : Host.Outcome State Fault Refusal := done (s.accept slot mbDeleteItem)

/-! ## Chunks of coefficient sets and masks (R203, R215, R326) -/

/-- The length of a chunk is more than what its set or mask still needs. -/
def overlong (n first total : Nat) : Bool := decide (total < first + n)

/-- The staging after a chunk: an entry of the numbered list replaced. -/
def setAt {α : Type} (l : List α) (i : Nat) (x : α) : List α := l.set i x

/-- The coefficients of a chunk. -/
def Cmd.taps (c : Cmd) : List Int := (range2 3 c.count).map fun i => c.s i 35 0

/-- The set that a chunk leads to, if it follows in order. -/
def chunkSet (old : Option CoefSet) (c : Cmd) : Option CoefSet :=
  let t := c.f 1 30 22
  let g := c.f 2 3 0
  if c.f 1 21 14 = 0 then some { taps := c.taps, total := t, shift := g }
  else match old with
    | some s => if s.taps.length = c.f 1 21 14 ∧ s.total = t ∧ s.shift = g then some { s with taps := s.taps ++ c.taps } else none
    | none => none

/-- The word at fault of a chunk that does not follow: that of FIRST and TAPS, or that of G if only G differs (R298). -/
def chunkFault (old : Option CoefSet) (c : Cmd) : Nat :=
  match old with
  | some s => if s.taps.length = c.f 1 21 14 ∧ s.total = c.f 1 30 22 then 2 else 1
  | none => 1

/-- Items that use the set and do not accept one that fails the guard check. -/
def Dev.guardFails (d : Dev) (n : Nat) (s : CoefSet) : Bool :=
  d.committedItems.any fun x => x.2.kind == kFiltered && x.2.coefSet == n && !x.2.saturateOk && !guardOk s x.2.inMax

/-- The load of the configuration with a set as given. -/
def Dev.setBudget (d : Dev) (n : Nat) (s : CoefSet) (opcode : Nat) : Bool :=
  let e := d.defer d.nextTick opcode (.coefSet n s)
  e.overBudget e.committedItems

/-- The staged set with another value, none where it is discarded. -/
def Dev.stageCoef (d : Dev) (n : Nat) (x : Option CoefSet) : Dev :=
  d.onSurvey fun s => { s with coefStaging := setAt s.coefStaging n x }

/-- A chunk that does not follow in order discards the staging, for whatever fault of its words it is refused (R326). -/
def Dev.coefDiscard (d : Dev) (c : Cmd) : Dev :=
  let n := c.f 1 35 31
  d.when (chunkSet (d.survey.coefStaging.getD n none) c).isNone fun e => e.stageCoef n none

def Dev.coefChunk (d : Dev) (c : Cmd) : Dev × Reply :=
  let n := c.f 1 35 31
  let old := d.survey.coefStaging.getD n none
  match chunkSet old c with
  | none => (d.stageCoef n none, .fail (failAt eParam (chunkFault old c)))
  | some s =>
    if s.taps.length < s.total then (d.stageCoef n (some s), .deferred d.nextTick [])
    else d.check (firstFail [(d.guardFails n s, failAt eParam 1), (d.setBudget n s c.opcode, failPlain eBudget)]) fun e =>
      (e.stageCoef n none).deferNext c (.coefSet n s) []

/-- A chunk with more taps than its set still needs names word 0, which holds COUNT (R298). -/
def mbCoefficientChunk : MbCommand :=
  { onDev { opcode := 0x302, counts := range2 3 31, options := [20], chunk := true }
      (fun c => [[(35, 14)], [(3, 0)]] ++ List.replicate (c.count - 2) fullWord)
      (fun c => faultsOf [(1, c.f 1 30 22 == 0 || decide (256 < c.f 1 30 22)),
        (0, overlong (c.count - 2) (c.f 1 21 14) (c.f 1 30 22)), (2, decide (12 < c.f 2 3 0))]) Dev.coefChunk with
    onFault := Dev.coefDiscard }

def execCoefficientChunk (slot : SlotId) (s : State) : Host.Outcome State Fault Refusal :=
  done (s.accept slot mbCoefficientChunk)

/-- Segment j of a DEFINE_MASK chunk. -/
def Cmd.segment (c : Cmd) (j : Nat) : Segment :=
  { fLo := c.f (2 + 3 * j) 35 11, band := c.b (2 + 3 * j) 10, fHi := c.f (3 + 3 * j) 35 11, limit := c.w (4 + 3 * j) }

def Cmd.segments (c : Cmd) : List Segment := (List.range ((c.count - 1) / 3)).map c.segment

/-- The segments that a chunk leads to, if it follows in order: the number wanted, and those staged. -/
def chunkMask (old : Option (Nat × List Segment)) (c : Cmd) : Option (Nat × List Segment) :=
  let t := c.f 1 29 23
  if c.f 1 22 17 = 0 then some (t, c.segments)
  else match old with
    | some s => if s.2.length = c.f 1 22 17 ∧ s.1 = t then some (t, s.2 ++ c.segments) else none
    | none => none

/-- The staged mask with another value, none where it is discarded. -/
def Dev.stageMask (d : Dev) (n : Nat) (x : Option (Nat × List Segment)) : Dev :=
  d.onSurvey fun s => { s with maskStaging := setAt s.maskStaging n x }

/-- Chunks of a mask follow the ordering of R326 (R332). -/
def Dev.maskDiscard (d : Dev) (c : Cmd) : Dev :=
  let n := c.f 1 35 30
  d.when (chunkMask (d.survey.maskStaging.getD n none) c).isNone fun e => e.stageMask n none

def Dev.maskChunk (d : Dev) (c : Cmd) : Dev × Reply :=
  let n := c.f 1 35 30
  match chunkMask (d.survey.maskStaging.getD n none) c with
  | none => (d.stageMask n none, .fail (failAt eParam 1))
  | some s =>
    if s.2.length < s.1 then (d.stageMask n (some s), .deferred d.nextTick [])
    else (d.stageMask n none).deferNext c (.mask n s.2) []

def mbDefineMask : MbCommand :=
  { onDev (form 0x901 ((range2 1 10).map fun j => 1 + 3 * j))
      (fun c => [[(35, 17)]] ++ (List.range ((c.count - 1) / 3)).flatMap fun _ => [[(35, 10)], [(35, 11)], fullWord])
      (fun c => faultsOf ([(1, c.f 1 29 23 == 0 || decide (64 < c.f 1 29 23)),
        (0, overlong ((c.count - 1) / 3) (c.f 1 22 17) (c.f 1 29 23))] ++
        (List.range ((c.count - 1) / 3)).flatMap fun j =>
          let g := c.segment j
          [(2 + 3 * j, decide (g.fHi ≤ g.fLo)), (4 + 3 * j, bfValue g.limit == 0)])) Dev.maskChunk with
    onFault := Dev.maskDiscard }

def execDefineMask (slot : SlotId) (s : State) : Host.Outcome State Fault Refusal := done (s.accept slot mbDefineMask)

/-! ## ARM and START (R16, R313) -/

/-- Every Survey group is in reset or powered down (R185). The detail names the first partition so (R325, R378; DEDUCED,
log 148). -/
def Dev.groupsFault (d : Dev) : Option Fail :=
  if (List.range 31).any d.groupUp then none
  else match (List.range 31).find? fun g => (d.part (partSurvey g)).inReset && !(d.part (partSurvey g)).down with
    | some g => some (failObj ePartReset 0xFFF 11 (partSurvey g))
    | none => some (failObj ePartDown 0xFFF 11 (partSurvey 0))

/-- The first group whose load exceeds the budget (R16). -/
def Dev.budgetFault (d : Dev) (items : List (Nat × Item)) (tick : Nat) : Option Fail :=
  ((d.loads items (d.budgetKs tick) d.engineDepth).zipIdx.find? fun x => decide (900 < x.1)).map fun x =>
    failObj eBudget 0xFFF 4 x.2

/-- A RISEFALL item whose channel does not have B_FUNC = PARTNER with THR_B above THR_A (R166). -/
def Item.badRise (i : Item) (cfg : Nat → ChanCfg) : Bool :=
  let x := cfg (i.ch.getD 0 0)
  i.kind == kRisefall && !(x.bFunc == .partner && decide (x.thrA < x.thrB))

/-- An SSC item whose window rate exceeds 40 M windows/s (R171). -/
def Item.badSsc (i : Item) : Bool := i.kind == kSsc && decide (i.pNom * i.sscM < 256000 * 2 ^ 24)

/-- Comparator B of a channel is used by an item: by way of PARTNER on the channel's partner. -/
def usesB (items : List (Nat × Item)) (cfg : Nat → ChanCfg) (c : Nat) : Bool :=
  (cfg c).bFunc == .partner && items.any fun x => decide (partnerOf c ∈ x.2.channels)

/-- The policy that will be in force at a tick (R22). -/
def Dev.strictAt (d : Dev) (tick : Nat) : Bool :=
  (d.fw.deferred.filter fun e => e.tick ≤ tick).foldl (fun b e => match e.effect with
    | .policy s => s
    | .loadSettings _ x _ => x.strict
    | _ => b) d.gs.strict

/-- An item with AUTO_LEVEL whose channels cannot be tracked (R175). -/
def Dev.badLevel (d : Dev) (tick : Nat) (items : List (Nat × Item)) (cfg : Nat → ChanCfg) (i : Item) : Bool :=
  i.autoLevel && !d.strictAt tick &&
    i.channels.any fun c => (cfg c).bFunc != .level || usesB items cfg c || (d.chan c).levels.isNone

/-- The first item with a property. -/
def firstItem (items : List (Nat × Item)) (p : Item → Bool) : Option Nat := (items.find? fun x => p x.2).map fun x => x.1

/-- A channel has an NCO user (R147). -/
def ncoUser (items : List (Nat × Item)) (c : Nat) : Bool := items.any fun x => x.2.usesNco && x.2.ch.getD 0 0 == c

/-- The first TIE traverse without an NCO user on its channel (R228). -/
def Dev.badTraverse (d : Dev) (items : List (Nat × Item)) : Option Nat :=
  (d.cap.traverses.find? fun t => t.kind == tvTie && !ncoUser items t.ch).map Traverse.num

/-- The map's events need the NCO (R243, R245). -/
def MapCfg.usesNco (m : MapCfg) : Bool := m.kind == mapStrip || m.kind == mapPersist || m.kind == mapEye

/-- The first map that needs the NCO of a channel without NCO users (R245). -/
def Dev.badMap (d : Dev) (items : List (Nat × Item)) : Option Nat :=
  (d.committedMaps.find? fun m => m.2.usesNco && !ncoUser items m.2.chA).map fun m => m.1

/-- Channels that items, traverses and maps use. -/
def Dev.usedChannels (d : Dev) (items : List (Nat × Item)) : List Nat :=
  items.flatMap (fun x => x.2.channels) ++ d.cap.traverses.map Traverse.ch ++
    d.committedMaps.flatMap fun m =>
      if m.2.kind = mapSpectrogram then [] else m.2.chA :: (if m.2.kind = mapPhase then [m.2.chB] else [])

/-- The first FE partition that is powered down under a used channel (R378). -/
def Dev.feFault (d : Dev) (items : List (Nat × Item)) : Option Fail :=
  ((d.usedChannels items).find? fun c => (d.part (bankOf c)).down).map fun c => failObj ePartDown 0xFFF 11 (bankOf c)

/-- The sample histories of the items placed in the pool one after another (R201, R223). -/
def placeHistories (runs : List (Nat × Nat)) : List (Nat × Item) → Option (List (Nat × Nat))
  | [] => some []
  | (_, i) :: r =>
    if i.historyWords = 0 then placeHistories runs r
    else
      let n := ceilDiv i.historyWords pageSize
      match firstFit runs n with
      | none => none
      | some p => (placeHistories ((p, n) :: runs) r).map fun l => (p, n) :: l

/-- The first item whose sample history finds no place in the pool. -/
def firstUnplaced (runs : List (Nat × Nat)) (items : List (Nat × Item)) : Option Nat :=
  ((List.range items.length).find? fun n => (placeHistories runs (items.take (n + 1))).isNone).bind fun n =>
    items[n]?.map fun x => x.1

/-- The pages in use but for the histories of a run before. -/
def Dev.runsBeforeStart (d : Dev) : List (Nat × Nat) := (d.onSurvey fun s => { s with histPages := [] }).runs none

/-- Every check of START (R313), in the order of that rule. -/
def Dev.startFail (d : Dev) (tick : Nat) : Option Fail :=
  let items := d.committedItems
  let cfg := d.committedCfg
  let named := fun (code : Nat) (n : Option Nat) (kind : Nat) => n.map fun x => failObj code 0xFFF kind x
  d.groupsFault <|> d.budgetFault items tick <|>
    named eParam (firstItem items fun i => i.conflicts cfg) 1 <|>
    named eParam (firstItem items fun i => i.badRise cfg) 1 <|>
    named eParam (firstItem items Item.badSsc) 1 <|>
    named eParam (firstItem items fun i => d.badLevel tick items cfg i) 1 <|>
    named eResource (setBClash items cfg) 1 <|> named eResource (jitterClash items) 1 <|>
    named eParam (d.badTraverse items) 2 <|> named eParam (d.badMap items) 3 <|> d.feFault items <|>
    named eResource (firstUnplaced d.runsBeforeStart items) 1

/-- ARM. -/
def mbArm : MbCommand :=
  onDev (form 0x304 [0]) (fun _ => []) (fun _ => []) fun d _ =>
    let t := d.transitionTick
    d.check (d.startFail t) fun e =>
      (if e.gs.transitions = [] then e.onGs fun g => { g with op := .armed } else e.addTransition .arm,
       .ok [w36 (e.load e.committedItems t)])

def execArm (slot : SlotId) (s : State) : Host.Outcome State Fault Refusal := done (s.accept slot mbArm)

/-- The schedule of a run: the placement of R185, the senses of set B (R181), the histories of R201, and the figures
that count since START. -/
def Dev.schedule (d : Dev) : Dev :=
  let items := d.committedItems
  let cfg := d.committedCfg
  d.onSurvey fun s =>
    { s with placement := (List.range 31).map d.groupOf, senseB := (List.range 96).map fun c => senseBOf items cfg c,
             histPages := (placeHistories d.runsBeforeStart items).getD [], store := [], overruns := 0, lateness := 0 }

/-- A transition accepted: it waits for its tick, which the response names. -/
def Dev.deferTransition (d : Dev) (t : Transition) (resp : List Word) : Dev × Reply :=
  (d.addTransition t, .deferred d.transitionTick resp)

/-- START. -/
def mbStart : MbCommand :=
  onDev (form 0x305 [0]) (fun _ => []) (fun _ => []) fun d _ =>
    let t := d.transitionTick
    d.check (d.startFail t) fun e => e.schedule.deferTransition .start [w36 (e.load e.committedItems t)]

def execStart (slot : SlotId) (s : State) : Host.Outcome State Fault Refusal := done (s.accept slot mbStart)

/-! ## HOLD, RESUME, STOP (R312, R314) -/

def mbHold : MbCommand :=
  onDev (form 0x306 [0]) (fun _ => []) (fun _ => []) fun d _ => d.deferTransition .hold []

def execHold (slot : SlotId) (s : State) : Host.Outcome State Fault Refusal := done (s.accept slot mbHold)

def mbResume : MbCommand :=
  onDev (form 0x307 [0]) (fun _ => []) (fun _ => []) fun d _ => d.deferTransition .resume []

def execResume (slot : SlotId) (s : State) : Host.Outcome State Fault Refusal := done (s.accept slot mbResume)

/-- STOP; from ARMED it acts at acceptance. -/
def mbStop : MbCommand :=
  onDev (form 0x308 [0]) (fun _ => []) (fun _ => []) fun d _ =>
    if d.judged = .armed then
      (if d.gs.transitions = [] then d.onGs fun g => { g with op := .ready } else d.addTransition .disarm, .ok [])
    else d.deferTransition .stop []

def execStop (slot : SlotId) (s : State) : Host.Outcome State Fault Refusal := done (s.accept slot mbStop)

/-! ## READ_READINGS (R188) -/

/-- A reading of an item that has published nothing: H0 with KIND and ITEM alone. -/
def blankReading (n : Nat) (i : Option Item) : List Word :=
  [word [(35, 28, (i.map Item.kind).getD 0), (27, 16, n)], 0, 0] ++ List.replicate ((i.map Item.valueWords).getD 0) 0

/-- The last reading published by an item, final or running. -/
def Survey.lastReading (s : Survey) (n : Nat) (running : Bool) : List Word :=
  match (s.inForce.find? fun r => r.num == n).map ItemRun.item with
  | none => blankReading n none
  | some i =>
    match s.store.lookup n with
    | none => blankReading n (some i)
    | some p =>
      let w := if running then p.2 else p.1
      if w = [] then blankReading n (some i) else w

/-- The piece of one request in `room` response words: nothing where descriptor and header do not fit. -/
def piece (s : Survey) (w : Word) (room : Nat) : List Word :=
  if room < 4 then []
  else
    let n := fld w 35 26
    let reading := s.lastReading n (bit w 25)
    let vals := ((reading.drop 3).drop (fld w 24 9)).take (room - 4)
    word [(35, 26, n), (25, 25, b2n (bit w 25)), (24, 9, fld w 24 9), (8, 0, vals.length)] :: reading.take 3 ++ vals

/-- The response to requests in order. -/
def pieces (s : Survey) (ws : List Word) : List Word := ws.foldl (fun out w => out ++ piece s w (64 - out.length)) []

def mbReadReadings : MbCommand :=
  onDev (form 0x309 (range2 1 16)) (fun c => List.replicate c.count [(35, 9)]) (fun _ => []) fun d c =>
    d.check (d.partsFault [partCapture]) fun e => (e, .ok (pieces e.survey ((range2 1 c.count).map c.w)))

def execReadReadings (slot : SlotId) (s : State) : Host.Outcome State Fault Refusal := done (s.accept slot mbReadReadings)

/-! ## SET_RESULT_RING (R308) -/

def Cmd.ringCfg (c : Cmd) : RingCfg :=
  { dma := c.f 1 1 0 == 1, hbase := BitVec.ofNat 64 (nat64 (c.w 2) (c.w 3)), hlenLog2 := c.f 1 6 2,
    wb := BitVec.ofNat 64 (nat64 (c.w 4) (c.w 5)), notify := c.b 1 7, notifyEvery := c.f 1 23 8 + 1 }

def mbSetResultRing : MbCommand :=
  onDev (form 0x30A [5]) (fun _ => [[(23, 0)]] ++ addr64Words ++ addr64Words)
    (fun c => faultsOf [(1, decide (1 < c.f 1 1 0) || decide (c.f 1 6 2 < 12) || decide (27 < c.f 1 6 2)),
      (3, c.f 3 11 0 != 0), (5, c.f 5 2 0 != 0)]) fun d c =>
    (d.onRing fun r => { r with pendingCfg := some (d.nextTick, c.ringCfg) }, .deferred d.nextTick [])

def execSetResultRing (slot : SlotId) (s : State) : Host.Outcome State Fault Refusal := done (s.accept slot mbSetResultRing)

/-- A new setting at its tick: the counters of the host ring restart. -/
def Dev.ringTick (d : Dev) : Dev :=
  match d.ring.pendingCfg with
  | some (t, c) =>
    if t ≤ d.tb.frame then
      d.onRing fun r => { r with cfg := c, pendingCfg := none, hwc := 0, hrc := 0, dropBatches := 0, dropReadings := 0,
                                 droppedRun := 0, jobs := [], batchCount := 0, damaged := false }
    else d
  | none => d

/-! ## GET_BUDGET (R185, R186) -/

/-- Two loads in one word. -/
def loadWord (l : List Nat) (j : Nat) : Word := word [(31, 16, l.getD (2 * j) 0), (15, 0, l.getD (2 * j + 1) 0)]

def mbGetBudget : MbCommand :=
  onDev (form 0x30B [0]) (fun _ => []) (fun _ => []) fun d _ =>
    let l := d.loads d.committedItems (d.budgetKs d.transitionTick) d.engineDepth
    (d, .ok ([w36 (capacity d.tb.k d.engineDepth % 2 ^ 32), w36 (maxN l % 2 ^ 16)] ++ (List.range 16).map (loadWord l) ++
      [w36 d.survey.overruns, w36 d.survey.lateness]))

def execGetBudget (slot : SlotId) (s : State) : Host.Outcome State Fault Refusal := done (s.accept slot mbGetBudget)

/-! ## GET_STATE (R192, R219) -/

/-- GS_STATE (12). -/
def Dev.stateLane (d : Dev) : Lane :=
  lane [(7, 0, d.gs.op.code), (15, 8, d.gs.lastError.toNat), (31, 16, d.gs.gen.toNat), (43, 32, d.gs.epochs % 4096),
    (47, 44, if d.gs.op = .boot then 0 else b2n d.strict)]

/-- SUMMARY. -/
def Dev.summary (d : Dev) : List Word :=
  [w36 (fld d.stateLane 31 0), word [(11, 0, d.gs.epochs % 4096), (15, 12, b2n d.strict), (20, 16, d.tb.k)]] ++
    words40 (d.tb.frame % 2 ^ 40)

/-- Up to 15 records of the run log from an index on. -/
def Survey.logWords (s : Survey) (first : Nat) : List Word :=
  let old := s.runLogCount - s.runLog.length
  let i := max first old
  [w36 (s.runLogCount % 2 ^ 32), w36 i] ++ ((s.runLog.drop (i - old)).take 15).flatMap id

/-- ROUTES. -/
def Survey.routeWords (s : Survey) : List Word :=
  s.routes.flatMap fun r => [w36 (min r.firings (2 ^ 36 - 1)), w36 (min r.suppressed (2 ^ 36 - 1)), w36 (r.last.getD 0)]

def mbGetState : MbCommand :=
  onDev (form 0x002 [1]) (fun _ => [fullWord]) (fun c => faultsOf [(1, decide (2 < c.f 1 35 32))]) fun d c =>
    (d, .ok (if c.f 1 35 32 = 0 then d.summary
      else if c.f 1 35 32 = 1 then d.survey.logWords (c.f 1 31 0) else d.survey.routeWords))

def execGetState (slot : SlotId) (s : State) : Host.Outcome State Fault Refusal := done (s.accept slot mbGetState)

end Sys2Proof.Machine
end

