-- ==== Sys2Proof/Machine/Device.lean ====
section
/-! DEFINITION. The device commands, the self-test, the doorbell and the cancel (12 R295, R301, 13 R322, R334). -/

namespace Sys2Proof.Machine

/-! ## IDENTIFY -/

/-- Bit c: channel ATLASc has a target. -/
def Atlas.population (a : Atlas) : Nat := listMask (a.targets.map Target.channel)

def State.identity (s : State) : List Word :=
  let w := s.watch
  [word [(35, 20, 0x7E5A), (19, 4, 0x0960), (3, 0, if w.gaz.identity.gradeS then 2 else 1)],
   word [(35, 28, Config.siRev.toNat), (23, 0, s.dev.gs.fwVersion.toNat)]] ++ words64 w.gaz.identity.serial.toNat ++
  [word [(1, 0, s.boot.activeSlot), (17, 2, w.gaz.rollback), (25, 18, s.dev.atlas.population),
     (33, 32, w.straps.bootSrc.toNat), (31, 30, w.straps.peWidth.toNat), (29, 26, w.straps.devAddr.toNat)]]

def mbIdentify : MbCommand :=
  onState (form 0x001 [0]) (fun _ => []) (fun _ => []) fun t _ => (t, .ok t.identity)

def execIdentify (slot : SlotId) (s : State) : Host.Outcome State Fault Refusal := done (s.accept slot mbIdentify)

/-! ## SET_POLICY (R22) -/

def mbSetPolicy : MbCommand :=
  onDev (form 0x004 [1]) (fun _ => [[(0, 0)]]) (fun _ => []) fun d c => d.deferNext c (.policy (c.b 1 0)) []

def execSetPolicy (slot : SlotId) (s : State) : Host.Outcome State Fault Refusal := done (s.accept slot mbSetPolicy)

/-! ## GET_HEALTH -/

/-- A bit per partition, in two words. -/
def Dev.partWords (d : Dev) (f : Partition → Bool) : List Word :=
  let m := listMask ((List.range 57).filter fun p => f (d.part p))
  [w36 m, w36 (m / 2 ^ 36)]

/-- Lines of which something holds. -/
def Dev.linesWith (d : Dev) (f : Line → Bool) : List (Nat × Nat) :=
  (List.range 96).flatMap fun c => ((List.range 5).filter fun l => f ((d.chan c).line l)).map fun l => (c, l)

def Dev.healthSummary (d : Dev) : List Word :=
  [word [(7, 0, d.gs.faultCode), (15, 8, d.gs.op.code)]] ++ d.partWords Partition.inReset ++ d.partWords Partition.down ++
  [w36 (clampU 32 d.cap.chart.skippedRenders), w36 (clampU 32 d.fw.eccCorrected), w36 (clampU 32 d.fw.eccUncorrectable)] ++
  channelMaskWords ((List.range 96).filter fun c => (d.chan c).parked) ++ lineMapWords (d.linesWith Line.onLinear)

/-- Generations, two partitions to a word. -/
def Dev.generationWords (d : Dev) : List Word :=
  (List.range 29).map fun j => word [(31, 16, (d.part (2 * j)).gen.toNat), (15, 0, (d.part (2 * j + 1)).gen.toNat)]

/-- Temperatures, three sensors to a word. -/
def Dev.temperatureWords (d : Dev) : List Word :=
  let t := fun (i : Nat) => codeOf 12 (d.fw.temps.getD i 0)
  (List.range 8).map fun j => word [(35, 24, t (3 * j)), (23, 12, t (3 * j + 1)), (11, 0, t (3 * j + 2))]

def Dev.healthPage (d : Dev) (page : Nat) : List Word :=
  if page = 0 then d.healthSummary
  else if page = 1 then d.generationWords
  else if page = 2 then lineMapWords (d.linesWith Line.marked)
  else d.temperatureWords

def mbGetHealth : MbCommand :=
  onDev (form 0x005 [1]) (fun _ => [[(3, 0)]]) (fun c => faultsOf [(1, decide (3 < c.f 1 3 0))]) fun d c =>
    (d, .ok (d.healthPage (c.f 1 3 0)))

def execGetHealth (slot : SlotId) (s : State) : Host.Outcome State Fault Refusal := done (s.accept slot mbGetHealth)

/-! ## SELF_TEST (R334) -/

/-- SELF_TEST begins; its tests run at the ticks that follow (DESIGN CHOICE, log 149). The results are the hardware's; a channel
that fails test 2 fails the test. -/
def mbSelfTest (fails badChannels : List Nat) : MbCommand :=
  onDev (form 0xF01 [1]) (fun _ => [[(4, 0)]]) (fun _ => []) fun d c =>
    let r : TestRun :=
      { slot := c.slot, tests := c.f 1 4 0, fails := if badChannels.isEmpty then fails else 2 :: fails
        bad := badChannels.filter (· < 96), results := [], cancelled := false }
    (d.onFw fun w => { w with selfTests := w.selfTests ++ [r] }, .running)

/-- 0 PASS, 1 FAIL, 2 SKIPPED for test t now. -/
def Dev.testResult (d : Dev) (r : TestRun) (t : Nat) : Nat :=
  if !r.tests.testBit t || (t == 2 && (d.gs.op == .safe || d.gs.op == .fault)) then 2 else if t ∈ r.fails then 1 else 0

/-- Test 2 leaves every comparator UNSETTLED. -/
def Dev.unsettleAll (d : Dev) : Dev :=
  d.updChans fun _ x =>
    let y : Channel := { x with a := x.a.unsettle d.tb.now 375, b := x.b.unsettle d.tb.now 375, pulse := none }
    y.updRec d.tb.frame fun r => { r with unsettledA := true, unsettledB := true }

/-- RESULTS, tests not run SKIPPED, and the channels that failed test 2. -/
def TestRun.words (r : TestRun) : List Word :=
  let res := (List.range 5).map fun t => r.results.getD t 2
  w36 (packNat (res.zipIdx.map fun x => (4 * x.2 + 3, 4 * x.2, x.1))) ::
    channelMaskWords (if res.getD 2 2 != 2 then r.bad else [])

/-- The next test of a SELF_TEST at the tick just past; cancelled, it ends before it. -/
def Dev.nextTest (d : Dev) (r : TestRun) : Dev :=
  let go := fun (x : Option TestRun) => d.onFw fun w => { w with selfTests := w.selfTests ++ x.toList }
  if r.cancelled then (go none).reply r.slot (.fail { code := eCancelled, index := 0xFFF, detail := 0, resp := r.words })
  else
    let t := r.results.length
    let v := d.testResult r t
    let x := { r with results := r.results ++ [v] }
    if t = 4 then (go none).reply r.slot (.ok x.words)
    else ((go (some x)).when (t == 2 && v != 2) Dev.unsettleAll).progress r.slot (200 * (t + 1))

/-- Each SELF_TEST in progress goes on by one test; nothing excludes a second one (R302). -/
def Dev.testTick (d : Dev) : Dev := (d.onFw fun w => { w with selfTests := [] }).each d.fw.selfTests Dev.nextTest

def execSelfTest (slot : SlotId) (fails badChannels : List Nat) (s : State) : Host.Outcome State Fault Refusal :=
  done (s.accept slot (mbSelfTest fails badChannels))

/-! ## MB_DOORBELL and MB_CANCEL -/

def execMbDoorbell (slot : SlotId) (tag : BitVec 16) (s : State) : Host.Outcome State Fault Refusal :=
  doneDev s (if s.open then s.dev.doorbell slot tag else s.dev)

/-- Runs of commands that the reference lists as cancellable stop at their next safe point. -/
def Dev.cancelRuns (d : Dev) (slot : Nat) : Dev :=
  let d1 := d.onFw fun w =>
    { w with check := w.check.map fun r => { r with cancelled := r.cancelled || r.slot == slot }
             levels := w.levels.map fun r => { r with cancelled := r.cancelled || r.slot == slot }
             selfTests := w.selfTests.map fun r => { r with cancelled := r.cancelled || r.slot == slot } }
  let d2 := d1.onCal fun c =>
    { c with run := c.run.map fun r => { r with cancelled := r.cancelled || (!r.startUp && r.slot == slot) }
             deskew := c.deskew.map fun r =>
               { r with cancelled := r.cancelled || (!r.ofCalibrate && r.set.isEmpty && r.slot == slot) } }
  let d3 := d2.onAlign fun a => { a with measureCancelled := a.measureCancelled || (match a.measure with
    | some m => m.slot == slot
    | none => false) }
  d3.onAtlas fun a =>
    { a with scrubs := a.scrubs.map fun x => { x with cancelled := x.cancelled || x.slot == some slot } }

/-- MB_CANCEL: with the slot's tag, a POSTED command finishes at once, and a cancellable one at its safe point. -/
def State.cancel (s : State) (slot : Nat) (tag : BitVec 16) : State :=
  let x := s.dev.slot slot
  if x.tag != tag then s
  else if x.st = .posted then
    { s with dev := s.dev.cancelPosted slot, boot := { s.boot with loading := s.boot.loading && slot != 0 } }
  else if x.busy then
    { s with dev := s.dev.cancelRuns slot
             boot := { s.boot with cancelled := s.boot.cancelled || s.dev.underWay slot 0x803 } }
  else s

def execMbCancel (slot : SlotId) (tag : BitVec 16) (s : State) : Host.Outcome State Fault Refusal :=
  done (if s.open then s.cancel slot tag else s)

end Sys2Proof.Machine
end

