-- ==== Sys2Proof/Machine/Reduction.lean ====
section
/-! DEFINITION. What a stamp reducer closes for each frame: the digest and the jitter block (03 R73, 07 R179 to R182). -/

namespace Sys2Proof.Machine

/-! ## The digest (R180) -/

/-- The 16 words of one set of edges, whose times count from the tick at `tick`, with midpoint `mid`; both in gr. FIRST and
LAST of an empty set are 0: R180 gives them no value (DESIGN CHOICE, log 185). -/
def setWords (ts : List Int) (tick mid : Int) : List Word × Bool :=
  let us := ts.map fun t => t - mid
  let ds := diffs 1 ts
  let m := minMax ds
  let lo := if ds = [] then (w36 (2 ^ 36 - 1), false) else clampWord m.1.toNat
  let hi := if ds = [] then (w36 0, false) else clampWord m.2.toNat
  let n := clampWord ts.length
  ([n.1] ++ wordsT72 (if ts = [] then 0 else ts.headD 0 - tick) ++ wordsT72 (if ts = [] then 0 else ts.getLastD 0 - tick) ++
    words108 (sumI us) ++ words108 (sumI (us.zipIdx.map fun x => (x.2 : Int) * x.1)) ++
    words108 (sumI (us.map fun u => u * u)) ++ [lo.1, hi.1], lo.2 || hi.2 || n.2)

/-- SENSE_B of a channel in the frame: by R181 where it stamps both senses. -/
def Dev.senseB (d : Dev) (ch : Nat) (r : FrameRec) : Nat := if r.cfg.edgeSel = .both then d.survey.senseB.getD ch 1 else 0

/-- P_f of the channel's NCO in a frame; 0 without a user of it. -/
def Dev.ncoStep (d : Dev) (ch : Nat) (info : FrameInfo) : Nat :=
  match anchorOf d.survey.items ch info.frame with
  | some r => ((d.stepItem info r).step).getD r.item.pNom
  | none => 0

/-- The counts of words 34 to 40 and 43, whose clamping the digest reports. -/
def FrameRec.counts (r : FrameRec) : List Nat :=
  [r.lostFifo + r.lostCheck, r.lostFifo, r.lostCheck, r.runtRej, r.runtKept, r.disagree, r.stampCheck, r.sorted]

/-- The 48 words of a frame's digest, and SAT of it. -/
def Dev.digest (d : Dev) (ch : Nat) (info : FrameInfo) (r : FrameRec) : List Word × Bool :=
  let ts := r.stamps.map fun s => ((s.time : Nat) : Int)
  let sb := d.senseB ch r
  let bs := if sb = 0 then [] else (r.stamps.filter fun s => s.rising == (sb == 1)).map fun s => ((s.time : Nat) : Int)
  let tick : Int := info.tick * 4096
  let mid := tick + (2 ^ (info.k - 1) * 4096 : Nat)
  let a := setWords ts tick mid
  let b := if sb = 0 then (List.replicate 16 0, false) else setWords bs tick mid
  let sat := a.2 || b.2 || r.saturated || r.counts.any fun n => (clampWord n).2
  ([word [(35, 29, ch), (28, 27, r.mode.code), (26, 26, b2n r.settledAtEnd), (25, 25, b2n r.unsettledA), (24, 24, b2n r.switched),
     (23, 23, b2n sat), (22, 22, b2n info.moved), (21, 20, sb)], w36 info.frame] ++ a.1 ++ b.1 ++
  ((r.counts.take 7).map fun n => (clampWord n).1) ++ words72 (d.ncoStep ch info) ++
  [(clampWord r.sorted).1, word [(35, 22, r.thrA), (21, 16, r.hysA), (15, 2, r.thrB)], word [(35, 24, codeOf 12 r.temp)], 0, 0],
  sat)

/-! ## The jitter block (R182) -/

/-- A signed value of one word, clamped at ±(2^35 − 1). -/
def word35 (x : Int) : Word := w36 (codeOf 36 (max (-(2 ^ 35 - 1)) (min (2 ^ 35 - 1) x)))

/-- TIE in 2^-24 gr to 2^-12 gr. -/
def tie12 (x : Int) : Int := roundDiv x (2 ^ 12)

/-- The jitter items of a channel that govern a frame. -/
def Dev.jitterItems (d : Dev) (ch f : Nat) : List ItemRun :=
  d.survey.items.filter fun r => r.covers f && r.item.isJitter && r.item.ch.getD 0 0 == ch

/-- The grid of the channel's NCO through a frame that is not worked yet. -/
def Dev.gridAhead (d : Dev) (ch : Nat) (info : FrameInfo) : List GridSeg :=
  match anchorOf d.survey.items ch info.frame with
  | none => []
  | some r =>
    let a := (d.stepItem info r).begin info (!d.gatedAt (info.frame - 1) || r.from_ == info.frame)
    match a.phase.start info.frame with
    | none => []
    | some s => (d.rawStream info a s).1

/-- The period from the last edge of a frame to the first of the next. -/
def headPeriod (prev ts : List Int) : Option Int :=
  match prev.getLast?, ts.head? with
  | some p, some t => some (t - p)
  | _, _ => none

/-- The last period of a frame whose edges are `prev`, of the frame after `older`: one between its own edges, or its head
period. -/
def lastPeriod (older prev : List Int) : Option Int := ((diffs 1 prev).getLast?).or (headPeriod older prev)

/-- The 40 summary words. STIE and SMTIE add up TIEs each rounded to its LSB, while STIE2 rounds its exact sum once: R182 gives the
LSBs only (DESIGN CHOICE, log 168). The arguments: `ts` are the frame's edges, `prev` those of the frame before and `older` those of the frame before
that, `xs` the NPERIOD intervals. -/
def jitterWords (grid : List GridSeg) (ts prev older xs : List Int) : List Word :=
  let ties := if grid = [] then [] else ts.map (tieOf grid)
  let first := (ties.head?.map fun x => x.1).getD 0
  let es := ties.map fun x => x.2
  let ms := ties.map fun x => x.1 - first
  let em := minMax (es.map tie12)
  let ps := diffs 1 ts
  let pm := minMax ps
  let head := headPeriod prev ts
  let h := head.getD 0
  let c0 := match head, lastPeriod older prev with
    | some x, some p => x - p
    | _, _ => 0
  let c1 := match head, ps.head? with
    | some x, some p => p - x
    | _, _ => 0
  let cs := diffs 1 ps
  let xm := minMax xs
  [w36 ts.length] ++ wordsT72 (sumI (es.map tie12)) ++ words108 (roundDiv (sumI (es.map fun e => e * e)) (2 ^ 24)) ++
  words108 (sumI ((ms.zip es).map fun x => x.1 * tie12 x.2)) ++ wordsT72 (sumI ms) ++ words108 (sumI (ms.map fun m => m * m)) ++
  wordsT72 first ++ [word35 em.1, word35 em.2] ++ words108 (sumI (ps.map fun p => p * p) + h * h) ++
  [w36 (clampU 36 pm.1.toNat), w36 (clampU 36 pm.2.toNat), w36 (clampU 36 h.toNat)] ++
  words108 (sumI (cs.map fun c => c * c) + c0 * c0 + c1 * c1) ++
  [w36 (clampU 36 (maxN (cs.map Int.natAbs))), word35 c0, word35 c1] ++ wordsT72 (sumI xs) ++
  words108 (sumI (xs.map fun x => x * x)) ++ [w36 (clampU 36 xm.1.toNat), w36 (clampU 36 xm.2.toNat), w36 (clampU 36 xs.length), 0, 0]

/-- The frame's values for the channel's HISTOGRAM item, binned: N, UNDER, OVER and the bins. The head period is the frame's
own. -/
def histWords (i : Item) (grid : List GridSeg) (ts prev : List Int) : List Nat :=
  let xs := if i.histPeriod then (headPeriod prev ts).toList ++ diffs 1 ts else if grid = [] then [] else ts.map fun t => (tieOf grid t).2 / 2 ^ 24
  let bs := xs.map (binOf i)
  let n := fun (p : Int → Bool) => (bs.filter p).length
  [xs.length, n fun b => decide (b < 0), n fun b => decide (4095 < b)] ++ (List.range 4096).map fun (b : Nat) => n fun x => x == (b : Int)

/-- Jitter summary and histogram of a channel for a frame; none without a jitter item. R182 does not say what the TIE words
hold while no gate anchors a grid, nor the words of x while no gate of an NPERIOD item is open: zeros (DESIGN CHOICE,
log 186). -/
def Dev.jitterBlock (d : Dev) (ch : Nat) (info : FrameInfo) : List Word × List Nat :=
  match d.jitterItems ch info.frame with
  | [] => ([], [])
  | r :: rs =>
    let f := info.frame
    let sense := r.item.sense.getD 0 0
    let ts := d.sel ch sense f
    let back := fun (n : Nat) => if n ≤ f then d.sel ch sense (f - n) else []
    let grid := d.gridAhead ch info
    let xs := match (r :: rs).find? fun x => x.item.kind == kNperiod with
      | none => []
      | some x =>
        match ((x.begin info (!d.gatedAt (f - 1) || x.from_ == f)).phase).start f with
        | none => []
        | some s =>
          let all := d.edgesOver ch sense (d.framesFrom s f)
          (diffs x.item.nper all).drop (all.length - x.item.nper - ts.length)
    (jitterWords grid ts (back 1) (back 2) xs, match (r :: rs).find? fun x => x.item.kind == kHistogram with
      | some x => histWords x.item grid ts (back 1)
      | none => [])

/-! ## Closing (R73) -/

/-- The oldest frame of a channel that is over and not closed. -/
def Dev.digestDue (d : Dev) (x : Channel) : Option FrameRec := x.frames.reverse.find? fun r => !r.closed && decide (r.frame < d.tb.frame)

/-- DIGEST_CLOSE: the digest of the oldest frame that is over, once its last stamp has left the FIFO. A parked channel
closes none. -/
def Dev.closeDigest (d : Dev) (ch : Nat) : Dev :=
  let x := d.chan ch
  match d.digestDue x with
  | none => d
  | some r =>
    match d.info r.frame with
    | none => d
    | some info =>
      if x.parked ∨ !d.drained ch r.frame then d
      else
        let q := d.jitterBlock ch info
        let g := d.digest ch info r
        d.updChan ch fun y => y.updRec r.frame fun z =>
          { z with closed := true, saturated := g.2, digest := g.1, jitter := q.1, hist := q.2, ncoStep := d.ncoStep ch info }

def execDigestClose (ch : Nat) (s : State) : Host.Outcome State Fault Refusal := doneDev s (s.dev.closeDigest ch)

end Sys2Proof.Machine
end

