-- ==== Sys2Proof/Machine/FrameTick.lean ====
section
/-! DEFINITION. FRAME_TICK: one frame closes, the next opens, and everything that the spec lets happen only at a tick
happens, in one order (01 R15 to R25, 03 R66 to R69, 07 R176 to R195, 12 R312 to R314). -/

namespace Sys2Proof.Machine

/-! ## The frame that closes -/

/-- LATCH = FRAME: the latches are copied and cleared (R43). A latch set under STICKY stays at the tick at which LATCH
becomes FRAME, so the first pair of FRAME includes it (DESIGN CHOICE, log 128). -/
def Comparator.frameLatch (x : Comparator) : Comparator :=
  { x with lastRose := x.rose, lastFell := x.fell, rose := false, fell := false }

/-- What a SETTLED comparator shows to the end of the judged part. -/
def Comparator.sawEnd (x : Comparator) : Comparator :=
  { x with sawHigh := x.sawHigh || (x.settled && x.out), sawLow := x.sawLow || (x.settled && !x.out) }

/-- A channel at the tick that ends frame f: latches, held runts (R41), the dealing order (R62), and the conditions
that the record takes at its closing tick. -/
def Channel.closeFrame (x : Channel) (f : Nat) (temp : Int) : Channel :=
  let a := if x.cfg.latchFrame then { x with a := x.a.frameLatch, b := x.b.frameLatch } else x
  let b := { a with a := a.a.sawEnd, b := a.b.sawEnd }.decide .full
  let c : Channel := { b with pulse := b.pulse.map fun p => { p with forcedFull := p.forcedFull || p.kept }, deal := 0 }
  c.updRec f fun r =>
    { r with settledAtEnd := x.a.settled, temp := temp }

/-- The frame closed with a lost edge (R81). -/
def Dev.lostIn (d : Dev) (f : Nat) : Bool :=
  d.chans.any fun x => decide (0 < (x.record f).lostFifo + (x.record f).lostCheck)

def Dev.closeFrame (d : Dev) (temps : List Int) : Dev :=
  let f := d.tb.frame
  let d1 := d.updChans fun c x => x.closeFrame f (temps.getD (bankOf c) 0)
  (d1.onFw fun w => { w with temps := temps }).when (d1.lostIn f) fun e => e.setFlag flagLost

/-! ## The frame that opens -/

/-- The first frame that some open gate, a filter that runs on (R204), or the work still to do, can look back to. -/
def Dev.keepFrom (d : Dev) (f : Nat) : Nat :=
  d.survey.items.foldl (fun m r =>
    let m1 := if r.item.usesNco ∧ r.grid ≠ [] then min m (d.lookFrom r (((d.info (f - 2)).map FrameInfo.tick).getD 0) f) else m
    match r.phase with
    | .opened s _ => min m1 (s - 3)
    | _ => m1) (f - 8)

/-- The channel keeps the records of the frames from `lo` on and of the last two, whatever number a load of the frame counter has
given them, and of the others the last stamps. -/
def Channel.forget (x : Channel) (lo : Nat) : Channel :=
  let l := x.lastOf lo
  { x with frames := x.frames.take 2 ++ (x.frames.drop 2).filter fun r => lo ≤ r.frame, lastRise := l.1, lastFall := l.2 }

/-- The description of the frame that the next tick opens at extended count n. -/
def Dev.nextInfo (d : Dev) (n : Nat) : FrameInfo :=
  { frame := d.nextTick, k := d.tb.k, tick := n, length := 2 ^ d.tb.k, gated := false, stretch := d.nextTick, runFrom := 0, leadIn := false, inRun := false,
    cold := !d.tb.warm, unlocked := !d.tb.meridian.locked, holdover := d.tb.holdover, refStep := false, adapted := false,
    moved := false, lateGroups := [], lateAll := !d.partUp partStamp, lateness := 0, noStamps := !d.partUp partStamp,
    gen := d.gs.gen, epoch := d.gs.epochs, selChanged := [], trig := [], forced := [], unpublished := true }

/-- The tick: the counters stand at its nominal count (R59), the frame number advances (R177), and records of frames
that nothing looks back to go. -/
def Dev.openFrame (d : Dev) : Dev :=
  let f := d.nextTick
  let n := d.tb.nominal f
  let lo := d.keepFrom f
  let d1 := d.onTb fun t =>
    { t with
      coarse := BitVec.ofNat 48 n
      coarseCheck := t.coarseCheck + (BitVec.ofNat 48 n - t.coarse)
      epoch := BitVec.ofNat 16 (n / 2 ^ 48)
      frame := f
      before := t.frame
      tickCount := n }
  let d2 := d1.onSurvey fun s => { s with frames := d.nextInfo n :: s.frames.filter fun i => lo ≤ i.frame }
  d2.updChans fun c x =>
    let r := FrameRec.opening f x (d.partUp (bankOf c))
    let y := x.forget lo
    { y with frames := ((x.early.filter fun e => e.frame == f).elim r r.with_) :: y.frames, early := none }

/-! ## Transitions (R312, R314) -/

/-- The operating state of the run; while a firmware slot is written it shows afterwards, and BOOT of an activation ends in it
in any case. -/
def Dev.runState (d : Dev) (o : OpState) : Dev :=
  d.onGs fun g => match g.op with
    | .updating => { g with before := o }
    | .boot => g
    | _ => { g with op := o }

/-- A transition at the tick that opens frame f, with its record in the run log. -/
def Dev.transit (d : Dev) (t : Transition) : Dev :=
  let f := d.tb.frame
  match t with
  | .start => ((d.onSurvey fun s => { s with leadIn := some f, inRun := true }).runState .surveying).log 0xA 0 f 0
  | .hold => (d.runState .hold).log 0xA 1 f 0
  | .resume => (d.runState .surveying).log 0xA 2 f 0
  | .stop =>
    ((d.onSurvey fun s =>
      { s with inRun := false, histPages := if d.gs.transitions.any fun x => x.2 == .start then s.histPages else [] }).runState
        .ready).log 0xA 3 f 0
  | .arm => d.runState .armed
  | .disarm => d.runState .ready

/-- At most one transition takes place at a tick. -/
def Dev.transitionTickNow (d : Dev) : Dev × Option Transition :=
  match d.gs.transitions with
  | (t, x) :: rest =>
    if t ≤ d.tb.frame then ((d.onGs fun g => { g with transitions := rest }).transit x, some x) else (d, none)
  | [] => (d, none)

/-- HOLD or STOP: frames from this tick on are not gated. -/
def endsGates (t : Option Transition) : Bool := t == some .hold || t == some .stop

/-- What the frame that opens is to the run (R152, R187). -/
def Dev.classify (d : Dev) : Dev :=
  let lead := d.survey.leadIn == some d.tb.frame && d.survey.inRun
  let before := d.survey.frames[1]?
  d.markFrame fun i =>
    { i with inRun := d.survey.inRun, leadIn := lead, gated := d.survey.inRun && d.gs.op == .surveying && !lead
             stretch := ((before.filter FrameInfo.gated).map FrameInfo.stretch).getD i.frame
             runFrom := if lead then i.frame + 1 else (before.map FrameInfo.runFrom).getD 0 }

/-! ## Deferred effects (R18, R30, R191) -/

/-- A fresh item from the tick that opens frame f. -/
def ItemRun.fresh (n : Nat) (i : Item) (f : Nat) : ItemRun :=
  { num := n, item := i, from_ := f, until_ := none, phase := .idle, count := 0, grid := [], samples := [], taken := 0,
    filter := { delay := [], phi := 0, v := 0, primed := false, seen := 0, clamped := false }, records := [], recordsCut := 0, violRun := 0,
    tests := [], asserted := [], step := none }

/-- The definition of item n ends with the frame before f. -/
def endItem (l : List ItemRun) (n f : Nat) : List ItemRun :=
  l.map fun r => if r.num = n ∧ r.until_.isNone then { r with until_ := some f } else r

/-- A definition joins the others in ascending number, behind one of the same number that still governs frames. -/
def insertItem (l : List ItemRun) (x : ItemRun) : List ItemRun :=
  (l.filter fun r => r.num ≤ x.num) ++ [x] ++ l.filter fun r => x.num < r.num

/-- A version from frame f on, newest first. -/
def newVersion {α : Type} (l : List (Nat × α)) (f : Nat) (v : α) : List (Nat × α) :=
  (f, v) :: (l.filter fun x => x.1 != f).take 7

/-- A level that tracking moves (R175): an adaptation of a run. -/
def Dev.adaptLevel (d : Dev) (c thr : Nat) : Dev :=
  if d.gs.op.running ∧ !d.strict ∧ d.partUp partCompass then
    ((d.updChan c fun x => { x with cfg := { x.cfg with thrA := thr } }).log 0x4 (c * 2 ^ 25 + thr) d.tb.frame
      0).markFrame fun i => { i with adapted := true }
  else d

/-- An effect at a tick: the device after it, and whether it was a configuration change. -/
def Dev.effect (d : Dev) (e : Deferred) : Dev × Bool :=
  let f := d.tb.frame
  match e.effect with
  | .policy s => (d.onGs fun g => { g with strict := s }, true)
  | .channel .. => (d.applyChannel e.effect, true)
  | .levels .. => (d.applyChannel e.effect, true)
  | .thrA c thr _ _ => (d.adaptLevel c thr, false)
  | .timebase c => (d.applyTimebase c, true)
  | .refPolicy j r =>
    let x := d.applyRefPolicy j r
    if x.2 then (x.1.defer d.nextTick e.opcode e.effect, false) else (x.1, true)
  | .calPolicy t g => (d.onCal fun c => { c with tempStep := t, slewGr := g }, false)
  | .item n i => (d.onSurvey fun s => { s with items := insertItem (endItem s.items n f) (ItemRun.fresh n i f) }, true)
  | .deleteItem n => (d.onSurvey fun s => { s with items := endItem s.items n f }, true)
  | .coefSet n c => (d.onSurvey fun s => { s with coefSets := s.coefSets.modify n fun l => newVersion l f c }, true)
  | .mask n m => (d.onSurvey fun s => { s with masks := s.masks.modify n fun l => newVersion l f m }, true)
  | .routes rs ls => (d.applyRoutes rs ls, false)
  | .contour n c b => (d.applyContour n c b, false)
  | .deleteContour n => (d.applyDeleteContour n, false)
  | .clearContour m => (d.applyClear m, false)
  | .stageBearing o s => (d.onTb fun t => { t with clkStaged := t.clkStaged.modify o fun c => c.bearing s }, false)
  | .deskew => (d.deskewEffect, false)
  | .loadSettings _ s skip => ((d.loadDevice s skip).deskewEpoch d |>.applyChannel e.effect, true)

/-- Effects that are due at the tick just past, in acceptance order. -/
def Dev.dueEffects (d : Dev) : List Deferred := d.fw.deferred.filter fun e => e.tick ≤ d.tb.frame

/-- Channels whose EDGE_SEL or DECIM differs. -/
def selDiffer (old new : List Channel) : List Nat :=
  (old.zip new).zipIdx.filterMap fun x =>
    if x.1.1.cfg.edgeSel != x.1.2.cfg.edgeSel || x.1.1.cfg.decim != x.1.2.cfg.decim then some x.2 else none

/-- The due effects apply, then the channels take the settings that are left; one generation for them all. -/
def Dev.effectsTick (d : Dev) : Dev :=
  let due := d.dueEffects
  let d1 := d.onFw fun w => { w with deferred := w.deferred.filter fun e => d.tb.frame < e.tick }
  let r := due.foldl (fun (x : Dev × Bool) e => let y := x.1.effect e; (y.1, x.2 || y.2)) (d1, false)
  let d2 := r.1.adoptAll d.tb.tickCount (d.chans.map Channel.cfg)
  (d2.markFrame fun i => { i with selChanged := selDiffer d.chans d2.chans }).when r.2 Dev.newGeneration

/-! ## Line modes (R67, R68) -/

/-- The choice of R68 from the count n of a frame of 2^k coarse cycles. -/
def nextMode (current : LineMode) (n k : Nat) (lost : Bool) : LineMode :=
  let upDual := decide (9 * 2 ^ k < 20 * n)
  let upSingle := decide (9 * 2 ^ k < 10 * n)
  let dnQuad := decide (200 * n < 81 * 2 ^ k)
  let dnDual := decide (100 * n < 81 * 2 ^ k)
  if lost then .single
  else match current with
    | .quad => if upSingle then .single else if upDual then .dual else .quad
    | .dual => if upSingle then .single else if dnQuad then .quad else .dual
    | .single => if dnQuad then .quad else if dnDual then .dual else .single

/-- The choice for a channel from its record of the frame before. -/
def Channel.choice (x : Channel) (f k : Nat) (current : LineMode) : LineMode :=
  let r := x.record (f - 1)
  nextMode current r.sorted k (r.lostFifo + r.lostCheck != 0)

/-- The tick that ends the lead-in frame. -/
def Dev.endsLeadIn (d : Dev) : Bool := d.survey.inRun && d.tb.frame != 0 && d.survey.leadIn == some (d.tb.frame - 1)

/-- The line mode of a channel for the frame that opens. The constants of the comparison are those of k at START (R68). -/
def Dev.modeOf (d : Dev) (x : Channel) : LineMode :=
  let k := d.survey.runK
  match x.cfg.lineMode with
  | some m => m
  | none =>
    if !d.survey.inRun || d.survey.leadIn == some d.tb.frame then .quad
    else if d.endsLeadIn then x.choice d.tb.frame k .quad
    else if d.strict then x.firstChoice
    else if !d.partUp partCompass then x.mode
    else x.choice d.tb.frame k x.mode

/-- Line modes at the tick just past, the first choice of a run, and their records. -/
def Dev.modeTick (d : Dev) : Dev :=
  let first := d.endsLeadIn
  let d1 := d.updChans fun _ x =>
    { x with mode := d.modeOf x
             firstChoice := if first then x.choice d.tb.frame d.survey.runK .quad else x.firstChoice
             prescale := if first then 0 else x.prescale }
  let auto := (d1.chans.zip d.chans).zipIdx.filter fun x => x.1.1.cfg.lineMode.isNone
  let detail := fun (x : (Channel × Channel) × Nat) => x.2 * 2 ^ 25 + x.1.1.mode.code
  if first then d1.each auto fun e x => e.log 0x6 (detail x) d.tb.frame 0
  else if d.survey.inRun ∧ !d.strict ∧ d.survey.leadIn != some d.tb.frame then
    let moved := auto.filter fun x => x.1.1.mode != x.1.2.mode
    (d1.each moved fun e x => e.log 0x3 (detail x) d.tb.frame 0).when (!moved.isEmpty) fun e =>
      e.markFrame fun i => { i with adapted := true }
  else d1

/-- Every record of the frame that opens takes the conditions as they are after all that applied at its tick. -/
def Dev.reopenRecords (d : Dev) : Dev :=
  let f := d.tb.frame
  d.updChans fun c x => x.updRec f fun r => (FrameRec.opening f x (d.partUp (bankOf c))).with_ r

/-! ## Late work (R17, R186, R380) -/

/-- The description of frame f changed. -/
def Dev.markInfo (d : Dev) (f : Nat) (g : FrameInfo → FrameInfo) : Dev :=
  d.onSurvey fun s => { s with frames := s.frames.map fun i => if i.frame = f then g i else i }

/-- Survey groups that take no work at this tick. -/
def Dev.groupsDown (d : Dev) : List Nat := (List.range 31).filter fun g => !d.partUp (partSurvey g)

/-- Groups that were late with the frame whose deadline this is. -/
def FrameInfo.withLate (i : FrameInfo) (l : List LateGroup) : FrameInfo :=
  { i with lateGroups := i.lateGroups ++ l.map LateGroup.group, lateness := l.foldl (fun m g => max m g.cycles) i.lateness }

/-- What was late at this tick, and what is lost because a partition is down at it. -/
def Dev.lateTick (d : Dev) (late : List LateGroup) : Dev :=
  let f := d.tb.frame
  let ran := late.filter fun g => d.partUp (partSurvey g.group)
  let d1 := if 1 ≤ f then d.markInfo (f - 1) fun i => { i with lateGroups := i.lateGroups ++ d.groupsDown } else d
  if f < 2 then d1
  else
    (d1.markInfo (f - 2) fun i => i.withLate ran).when (!d.partUp partCapture || !d.partUp partCompass) fun e =>
      e.markInfo (f - 2) fun i => { i with lateAll := true }

/-! ## The tick -/

/-- Candidates that no firmware is there to treat are dropped. -/
def Dev.dropCandidates (d : Dev) : Dev :=
  d.updChans fun _ x => { x with lines := x.lines.map fun l => { l with cand := none } }

/-- The policy in force at START holds until the run ends (R22), and so do the constants of R68, set from k at START: that in
force at the tick at which START applies (DEDUCED, log 131). -/
def Dev.startPolicy (d : Dev) (t : Option Transition) : Dev :=
  d.when (t == some .start) fun e => e.onSurvey fun s => { s with runStrict := e.gs.strict, runK := e.tb.k }

/-- A tick as far as the settings: the frame closes and opens, the time base, the run's transition and the deferred
effects. The transition that took place comes with it. -/
def Dev.tickSettings (d : Dev) (inputs : TickInputs) : Dev × Option Transition :=
  let d1 := (d.commitOverdue.checkJudge.closeFrame inputs.temps).openFrame
  let d2 := d1.warmTick.armTick.alignTick.measureTick.kTick.returnTick.walkTick.clockTick
  let r := d2.transitionTickNow
  (r.1.classify.effectsTick.startPolicy r.2, r.2)

/-- Line modes, checks, searches, tracking, calibration and deskew at a tick. -/
def Dev.tickChannels (d : Dev) : Dev :=
  let f := d.tb.frame
  let cc := d.tb.tickCount
  let d1 := ((d.modeTick.restoreTick cc).checkTick f cc |>.levelTick cc).trackTick f cc
  let d2 := d1.when (!d1.partUp partCompass) Dev.dropCandidates
  (d2.calTick.pathTick.runTick.deskewTick cc).reopenRecords

/-- The record of the last frame but one joins the blocks of R417, whatever number a load of the frame counter has given the
frames after it. -/
def Dev.healthTick (d : Dev) : Dev :=
  d.updChans fun _ x => match x.frames[2]? with
    | some r => x.healthOf r
    | none => x

/-- The work of frame f − 2 at a tick: readings and their batch, sheets, maps, routes. -/
def Dev.tickWork (d : Dev) (t : Option Transition) (late : List LateGroup) : Dev :=
  let f := d.tb.frame
  let d1 := (d.lateTick late).ringTick.traverseTick
  let d2 := d1.when (endsGates t) fun e => e.endWindows f
  let r := d2.workTick
  let d3 := match r.2 with
    | some w => if w.info.inRun && d.partUp partCapture then r.1.collectReadings w.info.frame w.readings else r.1
    | none => r.1
  let d4 := (d3.when (endsGates t) Dev.closeReadings).policyTick
  ((d4.workMaps r.2).rollMaps.fireRoutes r.2).healthTick.testTick

/-- Source 316 marks the tick, unless it serves the result-ring notice (R308). -/
def Dev.tickSignal (d : Dev) : Dev := d.when (!d.ring.cfg.notify) fun e => e.pulse 316

/-- The settings that a LOAD_SETTINGS due at this tick has outside the device. -/
def State.loadTick (s : State) (due : List Deferred) : State :=
  due.foldl (fun t e => match e.effect with
    | .loadSettings bankB x _ => t.loadRest bankB x false
    | _ => t) s

/-- The end of the start-up calibration requests the bank's k (R366). -/
def State.kAfterStartUp (s : State) (started : Bool) : State :=
  if s.boot.running && !started && s.dev.cal.startDone then
    match s.activeSettings with
    | some x => { s with dev := s.dev.requestK x.k }
    | none => s
  else s

/-- Running firmware settles its cores anew at each tick (DESIGN CHOICE, log 93). -/
def State.coresTick (s : State) : State :=
  let u := s.dev.nextFree
  if s.dev.evaluates then { s with dev := u.2, relay := s.relay.firmwareCores u.1 } else s

/-- STORE_SETTINGS captures what is in force at this tick until the next one (R371). -/
def State.noteSettings (s : State) : State := { s with boot := { s.boot with atTick := some s.inForce } }

/-- FRAME_TICK while the counters run. -/
def State.frameTick (s : State) (inputs : TickInputs) : State :=
  let d := s.dev
  let due := d.fw.deferred.filter fun e => e.tick ≤ d.nextTick
  let a := d.tickSettings inputs
  let s1 := { s with dev := a.1 }.loadTick due
  let s2 := if s1.loadDue then s1.bootSettings else s1
  let b := s2.dev.thermalTick.tickChannels.tickWork a.2 inputs.late
  let c := b.tickSignal.when (!s.boot.running) Dev.relockTick
  (({ s2 with dev := c.alignMove }.kAfterStartUp d.cal.startDone).tailTick (2 ^ d.tb.k)).startFirmware.coresTick.noteSettings

def execFrameTick (inputs : TickInputs) (s : State) : Host.Outcome State Fault Refusal :=
  done (if s.watch.perstN && s.dev.tb.running then s.frameTick inputs else s)

end Sys2Proof.Machine
end

