-- ==== Sys2Proof/Machine/Registers.lean ====
section
/-! DEFINITION. The host's window: GS_FLAGS, REGISTER_WRITE with every register of BAR0 and the words of BAR2, and what a
read of BAR0 returns (R3, R224, R232, R259, R293 to R310, R337 to R349). -/

namespace Sys2Proof.Machine

/-! ## GS_FLAGS (R25) -/

/-- A write to GS_FLAGS in the cycle in which hardware sets `hw`. -/
def Global.flagsWrite (g : Global) (value hw : Lane) : Global :=
  let v := (value.setWidth 13).setWidth 64
  let h := (hw.setWidth 13).setWidth 64
  { g with flags := w1c g.flags v h, flagsAgain := g.flagsAgain + BitVec.ofNat 16 (collisions v h) }

def execGsFlagsWrite (value hw : Lane) (s : State) : Host.Outcome State Fault Refusal :=
  doneDev s (if s.open then s.dev.onGs fun g => g.flagsWrite value hw else s.dev)

/-! ## Writes to registers without behaviour of their own -/

/-- MB_CMD[i] of a slot: ignored from the doorbell until the slot is DONE or FAILED (R295). -/
def Dev.writeCmd (d : Dev) (slot i : Nat) (v : Lane) : Dev :=
  d.updSlot slot fun x =>
    if x.st = .free ∨ x.st = .done ∨ x.st = .failed then { x with cmd := x.cmd.set i (v.setWidth 36) } else x

/-- A lane of the MSI-X table: its defined bits. -/
def msixLane (i : Nat) (v : Lane) : Lane := if i % 2 = 0 then v &&& ~~~3 else v &&& 0x1FFFFFFFF

/-- The RW registers of the Chart port (R259). -/
def Chart.write (c : Chart) (o : Nat) (v : Lane) : Chart :=
  if o = 0x00 then { c with scanEn := bit v 0, crcEn := bit v 1, check := BitVec.ofNat 8 (fld v 15 8) }
  else if o = 0x10 then { c with staged := { c.staged with addr := fld v 31 0 } }
  else if o = 0x18 then { c with staged := { c.staged with stride := fld v 23 0, format := fld v 25 24 } }
  else if o = 0x40 then { c with bg := v.setWidth 24 }
  else if 0xC0 ≤ o ∧ o < 0x100 then { c with crcExpect := c.crcExpect.set ((o - 0xC0) / 8) (v.setWidth 32) }
  else c

/-- ER_MASK[k]: the bits of host-owned sources (R336). -/
def Relay.maskWrite (r : Relay) (k : Nat) (v : Lane) : Relay :=
  r.scatter k v fun x on => if x.cfg.hostOwned then { x with masked := on } else x

/-- The registers of a mailbox slot. -/
def State.writeMailbox (s : State) (o : Nat) (v : Lane) : State :=
  let slot := o / 0x400
  let r := o % 0x400
  if r = 0x008 then { s with dev := s.dev.doorbell slot (v.setWidth 16) }
  else if r = 0x010 then s.cancel slot (v.setWidth 16)
  else if 0x100 ≤ r ∧ r < 0x200 then { s with dev := s.dev.writeCmd slot ((r - 0x100) / 8) v }
  else s

/-- The registers of the Event Relay, offsets from 0x8000. -/
def State.writeRelay (s : State) (o : Nat) (v : Lane) : State :=
  if o < 0xC00 then { s with relay := s.relay.upd (o / 8) fun x => x.hostConfig v }
  else if o < 0xC60 then { s with relay := s.relay.pendWrite ((o - 0xC00) / 8) v }
  else if 0xC80 ≤ o ∧ o < 0xCE0 then { s with relay := s.relay.maskWrite ((o - 0xC80) / 8) v }
  else if o = 0xE80 then { s with relay := s.relay.lostClear v }
  else if o = 0x1008 then s.completeH v
  else if o = 0x1010 then { s with relay := { s.relay with floor := fld v 7 4 } }
  else if o = 0x1020 then s.faultWrite v 0
  else if 0x1100 ≤ o ∧ o < 0x1200 then { s with watch := s.watch.entryWrite ((o - 0x1100) / 8) v }
  else if o = 0x1300 then { s with watch := s.watch.wakeWrite v 0 }
  else s

/-- The Chart registers, offsets from 0x6000. -/
def State.writeChart (s : State) (o : Nat) (v : Lane) : State :=
  if !s.chartOpen then s
  else if o = 0x20 then (if bit v 0 then { s with dev := s.dev.chartCommit s.dev.cap.chart.staged } else s)
  else { s with dev := s.dev.onChart fun c => c.write o v }

/-- A conforming write to BAR0. Registers that have a command of their own act as that command does, with no bit set by
hardware in the same cycle; a write to any other offset is ignored. -/
def State.writeBar0 (s : State) (o : Nat) (v : Lane) : State :=
  if o = 0x10 then { s with dev := s.dev.onGs fun g => g.flagsWrite v 0 }
  else if o = 0x50 then { s with dev := s.dev.onRing fun r => r.writeHrc v }
  else if 0x1000 ≤ o ∧ o < 0x5000 then s.writeMailbox (o - 0x1000) v
  else if 0x6000 ≤ o ∧ o < 0x7000 then s.writeChart (o - 0x6000) v
  else if o = 0x7008 then { s with watch := s.watch.latchWrite v 0 }
  else if 0x8000 ≤ o ∧ o < 0xC000 then s.writeRelay (o - 0x8000) v
  else if 0xC000 ≤ o ∧ o < 0xC400 then
    let i := (o - 0xC000) / 8
    { s with dev := s.dev.onHost fun h => { h with msixTable := h.msixTable.set i (msixLane i v) } }
  else if 0xD000 ≤ o ∧ o < 0xE000 ∧ o % 16 = 8 then
    { s with dev := s.dev.updTraverse ((o - 0xD000) / 16) fun t => t.writeRc v }
  else s

/-- The word lies in a page of a chart buffer (R224). -/
def Dev.hostWritable (d : Dev) (addr : Nat) : Bool :=
  d.partUp partCapture && d.cap.chart.buffers.any fun b => decide (b.base ≤ addr ∧ addr < b.base + b.pages * pageSize)

/-- A write to BAR2: it takes effect in chart-buffer pages only, and the word has good check bits from then on. -/
def Dev.writeBar2 (d : Dev) (offset : Nat) (v : Lane) : Dev :=
  let a := offset / 8
  if d.hostWritable a then
    d.onCap fun c => c.put (Mem.write c.mem a (v.setWidth 36)) (· == a)
  else d

/-- An access is aligned and 64 bits wide. -/
def conforms (w : HostWrite) : Bool := w.bytes == 8 && w.offset % 8 == 0

/-- REGISTER_WRITE. A write to BAR0 of another size, or not aligned, is discarded and logged through AER. -/
def State.hostWrite (s : State) (w : HostWrite) : State :=
  if !s.open then s
  else if w.bar2 then (if conforms w then { s with dev := s.dev.writeBar2 w.offset w.value } else s)
  else if !conforms w then
    { s with dev := (s.dev.onHost fun h => { h with aerCount := h.aerCount + 1 }).pulse 342 }
  else s.writeBar0 w.offset w.value

def execRegisterWrite (w : HostWrite) (s : State) : Host.Outcome State Fault Refusal := done (s.hostWrite w)

/-! ## What a read of BAR0 returns -/

/-- The four hottest sensors, a tie to the lower number. -/
def hotLane (temps : List Int) : Lane :=
  let pick := fun (l : List (Nat × Int)) => l.find? fun x => l.all fun y => decide (y.2 ≤ x.2)
  let rec go : Nat → List (Nat × Int) → List (Nat × Nat × Nat)
    | 0, _ => []
    | n + 1, l =>
      match pick l with
      | none => []
      | some x =>
        let i := 3 - n
        (16 * i + 10, 16 * i, codeOf 11 x.2) :: (16 * i + 15, 16 * i + 11, x.1) :: go n (l.filter fun y => y.1 != x.1)
  lane (go 4 (temps.zipIdx.map fun x => (x.2, x.1)))

def SlotState.code (s : SlotState) : Nat :=
  match s with
  | .free => 0
  | .posted => 1
  | .accepted => 2
  | .running => 3
  | .done => 4
  | .failed => 5

def Slot.status (x : Slot) : Lane :=
  lane [(15, 0, x.tag.toNat), (31, 16, x.partialWords), (47, 32, x.progress), (55, 48, x.error.toNat), (63, 56, x.st.code)]

/-- The GS block. -/
def State.readGs (s : State) (o : Nat) : Lane :=
  let d := s.dev
  if o = 0x00 then
    lane [(23, 0, d.gs.fwVersion.toNat), (31, 24, Config.siRev.toNat), (47, 32, 0x0960), (63, 48, 0x7E5A)]
  else if o = 0x08 then d.stateLane
  else if o = 0x10 then d.gs.flags
  else if o = 0x18 then d.gs.flagsAgain.setWidth 64
  else if o = 0x20 then lane [(39, 0, d.tb.frame)]
  else if o = 0x28 then d.tb.gsTb
  else if o = 0x30 then hotLane d.fw.temps
  else if o = 0x38 then d.tb.epoch.setWidth 64
  else if o = 0x40 then BitVec.ofNat 64 d.ring.wc
  else if o = 0x48 then BitVec.ofNat 64 d.ring.hwc
  else if o = 0x50 then BitVec.ofNat 64 d.ring.hrc
  else if o = 0x58 then lane [(31, 0, d.ring.dropBatches), (63, 32, d.ring.dropReadings)]
  else 0

def Dev.readMailbox (d : Dev) (o : Nat) : Lane :=
  let x := d.slot (o / 0x400)
  let r := o % 0x400
  if r = 0 then x.status
  else if 0x100 ≤ r ∧ r < 0x200 then (x.cmd.getD ((r - 0x100) / 8) 0).setWidth 64
  else if 0x200 ≤ r then (x.resp.getD ((r - 0x200) / 8) 0).setWidth 64
  else 0

/-- The Chart registers (R259). -/
def Chart.read (c : Chart) (o : Nat) : Lane :=
  if o = 0x00 then lane [(0, 0, b2n c.scanEn), (1, 1, b2n c.crcEn), (15, 8, c.check.toNat)]
  else if o = 0x08 then
    c.status
  else if o = 0x10 then lane [(31, 0, c.staged.addr)]
  else if o = 0x18 then lane [(23, 0, c.staged.stride), (25, 24, c.staged.format)]
  else if o = 0x28 then c.live.lane
  else if o = 0x30 then lane [(31, 0, c.commitFrame)]
  else if o = 0x38 then lane [(15, 0, c.line), (47, 16, c.frame)]
  else if o = 0x40 then c.bg.setWidth 64
  else if o = 0x48 then lane [(31, 0, c.underruns), (63, 32, c.lastUnderrun)]
  else if o = 0x50 then
    lane [(7, 0, c.crcValid.toNat), (15, 8, c.crcMismatch.toNat), (47, 16, c.crcFrame), (63, 48, min 65535 c.crcCount)]
  else if 0x80 ≤ o ∧ o < 0xC0 then (c.crcValue.getD ((o - 0x80) / 8) 0).setWidth 64
  else if 0xC0 ≤ o ∧ o < 0x100 then (c.crcExpect.getD ((o - 0xC0) / 8) 0).setWidth 64
  else 0

/-- The WM block (R57). -/
def Watch.readWm (w : Watch) (o : Nat) : Lane :=
  if o = 0x00 then w.wmState
  else if o = 0x08 then w.wmLatch
  else if o = 0x10 then w.wmLatchAgain
  else if o = 0x18 then w.wmMode
  else if 0x100 ≤ o ∧ o < 0x180 then w.wmCfg ((o - 0x100) / 8)
  else 0

/-- ER_SRC_CFG[n] (R337); OWNER reads 0 until GS_STATE leaves BOOT (R8). -/
def SrcCfg.lane (c : SrcCfg) (boot : Bool) : Lane :=
  Machine.lane [(3, 0, c.prio), (6, 4, c.sense.toNat), (12, 8, c.targets.toNat), (13, 13, b2n c.wake),
    (14, 14, b2n (c.hostOwned && !boot)), (15, 15, b2n c.lowest)]

/-- A stack entry with its source's input (R348). -/
def entryLane (e : StackEntry) (now : Bool) : Lane :=
  lane [(8, 0, e.source), (12, 9, e.prio), (13, 13, 1), (14, 14, b2n e.levelAtClaim), (15, 15, b2n now)]

/-- The Event Relay's registers but for ER_CLAIM_H and ER_PEND, whose reads act, offsets from 0x8000. -/
def State.readRelay (s : State) (o : Nat) : Lane :=
  let r := s.relay
  if o < 0xC00 then (r.source (o / 8)).cfg.lane (s.dev.gs.op == .boot)
  else if 0xC80 ≤ o ∧ o < 0xCE0 then r.gather ((o - 0xC80) / 8) fun x => x.masked
  else if 0xD00 ≤ o ∧ o < 0xE80 then
    let j := (o - 0xD00) / 8
    lane ((List.range 8).map fun m => (8 * m + 7, 8 * m, (r.source (8 * j + m)).lost))
  else if o = 0x1010 then
    lane [(3, 0, r.runPrio), (7, 4, r.floor), (8, 8, b2n (linkAsleep s.dev.host.link))]
  else if o = 0x1018 then
    lane [(3, 0, r.stack.length), (18, 4, listMask (r.stack.map fun e => e.prio - 1)),
      (27, 19, (r.stack.head?.map StackEntry.source).getD 0)]
  else if o = 0x1020 then
    lane [(2, 0, r.faultBits.toNat), (12, 4, r.badSource), (16, 13, r.snapDepth), (31, 24, r.faultCount),
      (47, 32, r.faultAgain.toNat)]
  else if 0x1040 ≤ o ∧ o < 0x10B8 then
    match r.stack.reverse[(o - 0x1040) / 8]? with
    | some e => entryLane e (r.source e.source).level
    | none => 0
  else if 0x1100 ≤ o ∧ o < 0x1200 then (s.watch.entries.getD ((o - 0x1100) / 8) WatchEntry.reset).lane
  else if o = 0x1300 then s.watch.erWake
  else if 0x1400 ≤ o ∧ o < 0x1478 then
    match r.snap[(o - 0x1400) / 8]? with
    | some e => entryLane e.1 e.2
    | none => 0
  else 0

/-- TV_WC and TV_RC (R232). -/
def Dev.readTv (d : Dev) (o : Nat) : Lane :=
  match d.traverse (o / 16) with
  | some t => BitVec.ofNat 64 (if o % 16 = 0 then t.wc else t.rc)
  | none => 0

/-- What a conforming read of BAR0 by 64 bits returns, for every register whose read has no effect of its own. -/
def State.readBar0 (s : State) (o : Nat) : Lane :=
  if o < 0x1000 then s.readGs o
  else if o < 0x5000 then s.dev.readMailbox (o - 0x1000)
  else if 0x6000 ≤ o ∧ o < 0x7000 then s.dev.chartLine.cap.chart.read (o - 0x6000)
  else if 0x7000 ≤ o ∧ o < 0x8000 then s.watch.readWm (o - 0x7000)
  else if 0x8000 ≤ o ∧ o < 0xC000 then s.readRelay (o - 0x8000)
  else if 0xC000 ≤ o ∧ o < 0xC400 then s.dev.host.msixTable.getD ((o - 0xC000) / 8) 0
  else if o = 0xC800 then BitVec.ofNat 64 (listMask s.dev.host.msixPending)
  else if 0xD000 ≤ o ∧ o < 0xE000 then s.dev.readTv (o - 0xD000)
  else 0

/-- How a read of the host completes: with data, poisoned or not, with Unsupported Request or with Completer Abort status. -/
inductive ReadCompletion
  | data (value : Lane) (poisoned : Bool)
  | unsupported
  | abort
  deriving DecidableEq, Repr

/-- A read of BAR0 of any offset and size: aligned 64-bit reads, and in the GS block aligned 32-bit reads, return data; any
other completes with Unsupported Request status (R293), and each with Completer Abort while HOST is down (R380). -/
def State.readBar0As (s : State) (o bytes : Nat) : ReadCompletion :=
  if !s.dev.partUp partHost then .abort
  else if bytes = 8 ∧ o % 8 = 0 then .data (s.readBar0 o) false
  else if bytes = 4 ∧ o % 4 = 0 ∧ o < 0x1000 then
    .data (BitVec.ofNat 64 ((s.readBar0 (o / 8 * 8)).toNat / 2 ^ (8 * (o % 8)) % 2 ^ 32)) false
  else .unsupported

/-- What a read of BAR2 returns, with the mark of a poisoned completion (R224). -/
def Dev.readBar2 (d : Dev) (offset : Nat) : Lane × Bool :=
  let a := offset / 8
  if a ∈ d.cap.poisoned then (BitVec.ofNat 64 (2 ^ 36 - 1), true) else ((Mem.read d.cap.mem a).setWidth 64, false)

/-- How a read of BAR2 completes: with Completer Abort while HOST or CAPTURE is down (R380). -/
def Dev.readBar2As (d : Dev) (offset : Nat) : ReadCompletion :=
  if !d.partUp partHost || !d.partUp partCapture then .abort
  else let r := d.readBar2 offset
    .data r.1 r.2

end Sys2Proof.Machine
end

