-- ==== Sys2Proof/Machine/Dispatch.lean ====
section
/-! DEFINITION. The dispatch: one arm per command of spec/opcode_table.json, each one call of its meaning. -/

namespace Sys2Proof.Machine

/-- What a command does to everything but the queue. -/
def exec (i : Instr) (s : State) : Host.Outcome State Fault Refusal :=
  match i with
  | .identify slot => Sys2Proof.Machine.execIdentify slot s
  | .getState slot => Sys2Proof.Machine.execGetState slot s
  | .resetPartition slot => Sys2Proof.Machine.execResetPartition slot s
  | .setPolicy slot => Sys2Proof.Machine.execSetPolicy slot s
  | .getHealth slot => Sys2Proof.Machine.execGetHealth slot s
  | .setChannel slot => Sys2Proof.Machine.execSetChannel slot s
  | .setLevels slot => Sys2Proof.Machine.execSetLevels slot s
  | .autoLevel slot => Sys2Proof.Machine.execAutoLevel slot s
  | .autoLevelStepEnd => Sys2Proof.Machine.execAutoLevelStepEnd s
  | .autoLevelTrackCycle => Sys2Proof.Machine.execAutoLevelTrackCycle s
  | .checkInput slot => Sys2Proof.Machine.execCheckInput slot s
  | .getChannelStatus read => Sys2Proof.Machine.execGetChannelStatus read s
  | .setTimebase slot => Sys2Proof.Machine.execSetTimebase slot s
  | .setRefPolicy slot => Sys2Proof.Machine.execSetRefPolicy slot s
  | .setClkout slot => Sys2Proof.Machine.execSetClkout slot s
  | .commitClocks slot => Sys2Proof.Machine.execCommitClocks slot s
  | .stepBearing slot => Sys2Proof.Machine.execStepBearing slot s
  | .setSpread slot => Sys2Proof.Machine.execSetSpread slot s
  | .getTimebase slot => Sys2Proof.Machine.execGetTimebase slot s
  | .setGraticule slot => Sys2Proof.Machine.execSetGraticule slot s
  | .defineItem slot => Sys2Proof.Machine.execDefineItem slot s
  | .coefficientChunk slot => Sys2Proof.Machine.execCoefficientChunk slot s
  | .deleteItem slot => Sys2Proof.Machine.execDeleteItem slot s
  | .arm slot => Sys2Proof.Machine.execArm slot s
  | .start slot => Sys2Proof.Machine.execStart slot s
  | .hold slot => Sys2Proof.Machine.execHold slot s
  | .resume slot => Sys2Proof.Machine.execResume slot s
  | .stop slot => Sys2Proof.Machine.execStop slot s
  | .readReadings slot => Sys2Proof.Machine.execReadReadings slot s
  | .setResultRing slot => Sys2Proof.Machine.execSetResultRing slot s
  | .getBudget slot => Sys2Proof.Machine.execGetBudget slot s
  | .calibrate slot => Sys2Proof.Machine.execCalibrate slot s
  | .setCalPolicy slot => Sys2Proof.Machine.execSetCalPolicy slot s
  | .deskew slot => Sys2Proof.Machine.execDeskew slot s
  | .getCal slot => Sys2Proof.Machine.execGetCal slot s
  | .freezeCal slot => Sys2Proof.Machine.execFreezeCal slot s
  | .defineTraverse slot => Sys2Proof.Machine.execDefineTraverse slot s
  | .resizeTraverse slot => Sys2Proof.Machine.execResizeTraverse slot s
  | .deleteTraverse slot => Sys2Proof.Machine.execDeleteTraverse slot s
  | .freezeTraverse slot => Sys2Proof.Machine.execFreezeTraverse slot s
  | .defineContour slot => Sys2Proof.Machine.execDefineContour slot s
  | .clearContour slot => Sys2Proof.Machine.execClearContour slot s
  | .defineChartBuffer slot => Sys2Proof.Machine.execDefineChartBuffer slot s
  | .setChartMode slot => Sys2Proof.Machine.execSetChartMode slot s
  | .setLegend slot => Sys2Proof.Machine.execSetLegend slot s
  | .setCrcRect slot => Sys2Proof.Machine.execSetCrcRect slot s
  | .renderContour slot => Sys2Proof.Machine.execRenderContour slot s
  | .renderStart buffer => Sys2Proof.Machine.execRenderStart buffer s
  | .renderDone buffer => Sys2Proof.Machine.execRenderDone buffer s
  | .atlasFormat slot targets => Sys2Proof.Machine.execAtlasFormat slot targets s
  | .atlasOpen slot targets => Sys2Proof.Machine.execAtlasOpen slot targets s
  | .atlasAppendPolicy slot => Sys2Proof.Machine.execAtlasAppendPolicy slot s
  | .atlasRead slot => Sys2Proof.Machine.execAtlasRead slot s
  | .atlasFence slot => Sys2Proof.Machine.execAtlasFence slot s
  | .atlasHealth slot => Sys2Proof.Machine.execAtlasHealth slot s
  | .atlasScrub slot => Sys2Proof.Machine.execAtlasScrub slot s
  | .storeSettings slot => Sys2Proof.Machine.execStoreSettings slot s
  | .loadSettings slot => Sys2Proof.Machine.execLoadSettings slot s
  | .updateFirmware slot => Sys2Proof.Machine.execUpdateFirmware slot s
  | .activateFirmware slot => Sys2Proof.Machine.execActivateFirmware slot s
  | .getHoldup slot => Sys2Proof.Machine.execGetHoldup slot s
  | .defineMask slot => Sys2Proof.Machine.execDefineMask slot s
  | .setTriggerRoute slot => Sys2Proof.Machine.execSetTriggerRoute slot s
  | .forceTrigger slot => Sys2Proof.Machine.execForceTrigger slot s
  | .alignArm slot => Sys2Proof.Machine.execAlignArm slot s
  | .alignMeasure slot => Sys2Proof.Machine.execAlignMeasure slot s
  | .alignApply slot => Sys2Proof.Machine.execAlignApply slot s
  | .alignApplyTimeout => Sys2Proof.Machine.execAlignApplyTimeout s
  | .selfTest slot fails badChannels => Sys2Proof.Machine.execSelfTest slot fails badChannels s
  | .setMonitor slot => Sys2Proof.Machine.execSetMonitor slot s
  | .hostLoad => Sys2Proof.Machine.execHostLoad s
  | .mbCancel slot tag => Sys2Proof.Machine.execMbCancel slot tag s
  | .gsFlagsWrite value hw => Sys2Proof.Machine.execGsFlagsWrite value hw s
  | .wmLatchWrite value hw => Sys2Proof.Machine.execWmLatchWrite value hw s
  | .erFaultWrite value hw => Sys2Proof.Machine.execErFaultWrite value hw s
  | .erWakeWrite value hw => Sys2Proof.Machine.execErWakeWrite value hw s
  | .tvRcWrite traverse value => Sys2Proof.Machine.execTvRcWrite traverse value s
  | .gsRingHrcWrite value => Sys2Proof.Machine.execGsRingHrcWrite value s
  | .cpCommit value => Sys2Proof.Machine.execCpCommit value s
  | .erPendWrite k value => Sys2Proof.Machine.execErPendWrite k value s
  | .erSrcCfgWrite n value => Sys2Proof.Machine.execErSrcCfgWrite n value s
  | .erLostClear value => Sys2Proof.Machine.execErLostClear value s
  | .erClaimH => Sys2Proof.Machine.execErClaimH s
  | .erCompleteH value => Sys2Proof.Machine.execErCompleteH value s
  | .erCompleteFlush => Sys2Proof.Machine.execErCompleteFlush s
  | .registerWrite w => Sys2Proof.Machine.execRegisterWrite w s
  | .hostSleepChange link => Sys2Proof.Machine.execHostSleepChange link s
  | .smbusBlockRead command => Sys2Proof.Machine.execSmbusBlockRead command s
  | .smbusBlockWrite command count pecGood value hw => Sys2Proof.Machine.execSmbusBlockWrite command count pecGood value hw s
  | .alertResponse => Sys2Proof.Machine.execAlertResponse s
  | .smbusTimeout => Sys2Proof.Machine.execSmbusTimeout s
  | .gzBoardUpdate bits => Sys2Proof.Machine.execGzBoardUpdate bits s
  | .comparatorAEdge x => Sys2Proof.Machine.execComparatorAEdge x s
  | .comparatorBEdge x => Sys2Proof.Machine.execComparatorBEdge x s
  | .lineRead ch codes => Sys2Proof.Machine.execLineRead ch codes s
  | .stampRetire ch nowCc parityBad => Sys2Proof.Machine.execStampRetire ch nowCc parityBad s
  | .stampCheck ch nowCc parityGood mismatch codes => Sys2Proof.Machine.execStampCheck ch nowCc parityGood mismatch codes s
  | .coarseMismatch => Sys2Proof.Machine.execCoarseMismatch s
  | .comparatorSettled ch compB above time => Sys2Proof.Machine.execComparatorSettled ch compB above time s
  | .frameTick inputs => Sys2Proof.Machine.execFrameTick inputs s
  | .digestClose ch => Sys2Proof.Machine.execDigestClose ch s
  | .lutCandidateBuilt ch line hits obs => Sys2Proof.Machine.execLutCandidateBuilt ch line hits obs s
  | .trigOutActive line => Sys2Proof.Machine.execTrigOutActive line s
  | .trigOutInactive line => Sys2Proof.Machine.execTrigOutInactive line s
  | .trigEdge line high nowCc => Sys2Proof.Machine.execTrigEdge line high nowCc s
  | .traverseCommit traverse => Sys2Proof.Machine.execTraverseCommit traverse s
  | .contourDecay map => Sys2Proof.Machine.execContourDecay map s
  | .levelEyeStep map => Sys2Proof.Machine.execLevelEyeStep map s
  | .stabilityEvaluation mean => Sys2Proof.Machine.execStabilityEvaluation mean s
  | .thermalEvaluation temps => Sys2Proof.Machine.execThermalEvaluation temps s
  | .thermalHw => Sys2Proof.Machine.execThermalHw s
  | .refEdge codes => Sys2Proof.Machine.execRefEdge codes s
  | .refWindowEnd => Sys2Proof.Machine.execRefWindowEnd s
  | .refAbsent => Sys2Proof.Machine.execRefAbsent s
  | .refReturn => Sys2Proof.Machine.execRefReturn s
  | .refWalkEnd => Sys2Proof.Machine.execRefWalkEnd s
  | .lockWindowEnd pll count at_ => Sys2Proof.Machine.execLockWindowEnd pll count at_ s
  | .coarseWrap => Sys2Proof.Machine.execCoarseWrap s
  | .syncMarker bits codes => Sys2Proof.Machine.execSyncMarker bits codes s
  | .syncProbeReceived codes => Sys2Proof.Machine.execSyncProbeReceived codes s
  | .probeEcho first rest => Sys2Proof.Machine.execProbeEcho first rest s
  | .alignMeasureDone => Sys2Proof.Machine.execAlignMeasureDone s
  | .eventSourceAssert source level => Sys2Proof.Machine.execEventSourceAssert source level s
  | .monitorExcursion m report => Sys2Proof.Machine.execMonitorExcursion m report s
  | .supplyFault m => Sys2Proof.Machine.execSupplyFault m s
  | .latchPeriodEnd m => Sys2Proof.Machine.execLatchPeriodEnd m s
  | .holdupMeasured code => Sys2Proof.Machine.execHoldupMeasured code s
  | .pwrFail => Sys2Proof.Machine.execPwrFail s
  | .pwrFailClear => Sys2Proof.Machine.execPwrFailClear s
  | .powerOnReset straps => Sys2Proof.Machine.execPowerOnReset straps s
  | .perstNAssert => Sys2Proof.Machine.execPerstNAssert s
  | .perstNRelease straps => Sys2Proof.Machine.execPerstNRelease straps s
  | .bootEnd => Sys2Proof.Machine.execBootEnd s
  | .watchdog => Sys2Proof.Machine.execWatchdog s
  | .partitionReady part => Sys2Proof.Machine.execPartitionReady part s
  | .partitionStuck part => Sys2Proof.Machine.execPartitionStuck part s
  | .eccError place corrected => Sys2Proof.Machine.execEccError place corrected s
  | .memoryScrub corrected => Sys2Proof.Machine.execMemoryScrub corrected s
  | .ringCopyDone => Sys2Proof.Machine.execRingCopyDone s
  | .linkEvent e => Sys2Proof.Machine.execLinkEvent e s
  | .chartFrameStart => Sys2Proof.Machine.execChartFrameStart s
  | .chartLatchPoint => Sys2Proof.Machine.execChartLatchPoint s
  | .chartUnderrun line firstMissing => Sys2Proof.Machine.execChartUnderrun line firstMissing s
  | .hpdLoss => Sys2Proof.Machine.execHpdLoss s
  | .hpdReturn sink => Sys2Proof.Machine.execHpdReturn sink s
  | .hpdIrq linkGood => Sys2Proof.Machine.execHpdIrq linkGood s
  | .flashProgramDone channel erase good => Sys2Proof.Machine.execFlashProgramDone channel erase good s
  | .scrubPass hour block codewords => Sys2Proof.Machine.execScrubPass hour block codewords s
  | .ocxoWarmChange level => Sys2Proof.Machine.execOcxoWarmChange level s
  | .mbDoorbell slot tag => Sys2Proof.Machine.execMbDoorbell slot tag s
  | .erPendRead k => Sys2Proof.Machine.execErPendRead k s
  | .powerLoss => Sys2Proof.Machine.execPowerLoss s
  | .gazetteerWriteDone good => Sys2Proof.Machine.execGazetteerWriteDone good s
  | .imageDmaReadDone image => Sys2Proof.Machine.execImageDmaReadDone image s
  | .flashReadDone channel quality found => Sys2Proof.Machine.execFlashReadDone channel quality found s
  | .linkTrainingDone good => Sys2Proof.Machine.execLinkTrainingDone good s

end Sys2Proof.Machine
end

