-- ==== Sys2Proof/Safety.lean ====
section
/-! DEFINITION. The terms in which claims about the block are stated: safe runs, mailbox commands that firmware accepts,
what a command leaves in its slot, and what it leaves alone. -/

namespace Sys2Proof

open Machine

/-- n steps from s answer next states. -/
def safeRun : Nat → State → Prop
  | 0, _ => True
  | n + 1, s => ∃ t, step s = .next t ∧ safeRun n t

namespace Machine

/-! ## What events leave alone -/

/-- The relay's registers that only H, firmware and resets write: the settings and masks of the sources, H's stack, its
floor, the order fault bits with their record, and the shadows. -/
structure Relay.Same (r q : Relay) : Prop where
  cfg : q.sources.map Source.cfg = r.sources.map Source.cfg
  masked : q.sources.map Source.masked = r.sources.map Source.masked
  shadow : q.shadow = r.shadow
  stack : q.stack = r.stack
  floor : q.floor = r.floor
  order : q.order = r.order
  unclaimed : q.unclaimed = r.unclaimed
  fwOrder : q.fwOrder = r.fwOrder
  badSource : q.badSource = r.badSource
  snapDepth : q.snapDepth = r.snapDepth
  faultCount : q.faultCount = r.faultCount
  faultAgain : q.faultAgain = r.faultAgain
  snap : q.snap = r.snap
  corePrio : q.corePrio = r.corePrio
  coreFloor : q.coreFloor = r.coreFloor

/-- All of the Watch domain but SEEN, ALERT_N, H_WAKE, the posted state and FAULT_N. -/
structure Watch.Same (w v : Watch) : Prop where
  powered : v.powered = w.powered
  monitors : v.monitors = w.monitors
  latchAgain : v.latchAgain = w.latchAgain
  holdup : v.holdup = w.holdup
  holdupResult : v.holdupResult = w.holdupResult
  entries : v.entries = w.entries
  wakeAgain : v.wakeAgain = w.wakeAgain
  perstN : v.perstN = w.perstN
  held : v.held = w.held
  pwrFailN : v.pwrFailN = w.pwrFailN
  straps : v.straps = w.straps
  gaz : v.gaz = w.gaz
  watchLoaded : v.watchLoaded = w.watchLoaded
  tapIr : v.tapIr = w.tapIr
  smbusBusy : v.smbusBusy = w.smbusBusy
  smbusNack : v.smbusNack = w.smbusNack

/-! ## Between two steps -/

/-- What holds between two steps. No signal waits to be sensed. The Watch domain shows the operating state, and FAULT_N
is low in FAULT only (R351, R385). ALERT_N is asserted only while SEEN or H_WAKE holds it and PERST_N is released, and H_WAKE
only while H sleeps (R344, R350, R399). An entry of ER_WATCH with a level sense whose input is active has its SEEN bit (R349). Out of PERST_N, every
priority with a source deliverable to H has a message outstanding (R345), no source waits for a core that could take it
(R346), and a level-sensed source that is offered to no core, not claimed and at its active level is pending (R339). -/
structure Settled (s : State) : Prop where
  signals : s.dev.signals = []
  posted : s.watch.postedState = if s.watch.perstN then s.dev.gs.op else .boot
  faultN : s.watch.faultN = (s.dev.gs.op != .fault)
  alert : s.watch.alert = true → s.watch.seen ≠ 0 ∨ s.watch.hWake = true
  alertPin : s.watch.alert = true → s.watch.perstPin = true
  hWake : s.watch.hWake = true → linkAsleep s.dev.host.link = true
  watched : ∀ i, i < 32 → ∀ e, e = s.watch.entries.getD i WatchEntry.reset → e.enable = true → e.source < 384 →
    s.watch.senses e.source = true → levelMet e.sense (s.relay.source e.source).level = true →
    s.watch.seen.getLsbD i = true
  messages : s.watch.perstN = true → ∀ x ∈ s.relay.sources, s.relay.deliverable (linkAsleep s.dev.host.link) x = true →
    x.cfg.prio < 16 → x.cfg.prio ∈ s.relay.outstanding
  cores : s.watch.perstN = true → ∀ x ∈ s.relay.sources, s.relay.forCore x = false
  levels : s.watch.perstN = true → ∀ n x, s.relay.sources[n]? = some x → x.cfg.targets &&& 15 = 0 →
    s.relay.claimed n = false → levelMet x.cfg.sense x.level = true → x.pend = true

/-! ## Mailbox commands -/

/-- Firmware accepts the command posted in the slot as this one: it is the next to be accepted, and the general checks
of acceptance find nothing. -/
structure Ready (s : State) (slot : SlotId) (m : MbCommand) : Prop where
  next : s.dev.next m.form slot = true
  legal : (s.dev.take slot).refusal m.form (s.dev.cmdOf slot) (m.faultsOf (s.dev.cmdOf slot)) = none

/-- A message of a vector has gone to the host, or is held pending for it. -/
def messaged (t : State) (v : Nat) : Prop := v ∈ t.dev.host.msixSent ∨ v ∈ t.dev.host.msixPending

/-- The slot holds a result: DONE or FAILED, ERROR_CODE, the response words with their number, the command's tag; and
with NOTIFY its message. -/
structure Ended (s t : State) (slot : Nat) (failed : Bool) (code : Nat) (out : List Word) : Prop where
  st : (t.dev.slot slot).st = if failed then .failed else .done
  error : (t.dev.slot slot).error = BitVec.ofNat 8 code
  resp : (t.dev.slot slot).resp = fit 64 0 out
  words : (t.dev.slot slot).partialWords = min 64 out.length
  progress : failed = false → (t.dev.slot slot).progress = 1000
  tag : (t.dev.slot slot).tag = (s.dev.slot slot).tag
  notify : bit (s.dev.cmdWord slot 0) 35 = true → messaged t (16 + slot)

/-- The command of the slot is RUNNING. -/
structure RunsOn (s t : State) (slot : SlotId) : Prop where
  st : (t.dev.slot slot).st = .running
  tag : (t.dev.slot slot).tag = (s.dev.slot slot).tag
  cmd : (t.dev.slot slot).cmd = (s.dev.slot slot).cmd

/-- The parts of the device but for the command interface, the relay's signals and LAST_ERROR are those of `d`. -/
structure Holds (t : State) (d : Dev) : Prop where
  gs : t.dev.gs = { d.gs with lastError := t.dev.gs.lastError }
  ring : t.dev.ring = d.ring
  chans : t.dev.chans = d.chans
  cal : t.dev.cal = d.cal
  tb : t.dev.tb = d.tb
  survey : t.dev.survey = d.survey
  cap : t.dev.cap = d.cap
  atlas : t.dev.atlas = d.atlas
  fw : t.dev.fw = d.fw

/-- Outside the device nothing changes but events: the queue, the start-up, the Watch domain's registers and the relay's
registers stand. -/
structure Outside (s t : State) : Prop where
  pending : t.pending = s.pending
  boot : t.boot = s.boot
  relay : s.relay.Same t.relay
  watch : s.watch.Same t.watch

/-- What firmware does with an order of posted commands while it serves them: the commands at its front whose opcode is in
no table leave it and end FAILED with E_OPCODE; the rest of the order stands (R297). -/
structure SkipsUnknown (s t : State) (order : List Nat) : Prop where
  queue : t.dev.host.queue = if t.dev.serves then order.dropWhile s.dev.unknown else order
  turned : t.dev.serves = true → ∀ n ∈ order.takeWhile s.dev.unknown, n < s.dev.host.slots.length →
    Ended s t n true eOpcode (failAt eOpcode 0).words

/-- The slots of the commands that end so. -/
def skipsOf (s t : State) (order : List Nat) : List Nat :=
  if t.dev.serves then order.takeWhile s.dev.unknown else []

/-- The link, the vectors' table, the value last read and the collisions of AER stand. -/
structure PortStands (s t : State) : Prop where
  link : t.dev.host.link = s.dev.host.link
  table : t.dev.host.msixTable = s.dev.host.msixTable
  readValue : t.dev.host.readValue = s.dev.host.readValue
  aerCount : t.dev.host.aerCount = s.dev.host.aerCount

/-- The rest of the command interface after the command of a slot: the queue has lost its head, and behind it the commands
with unknown opcodes that come first; every other slot is as it was. -/
structure Served (s t : State) (slot : SlotId) : Prop where
  order : SkipsUnknown s t (s.dev.host.queue.drop 1)
  slots : ∀ n, n ≠ slot.val → n ∉ skipsOf s t (s.dev.host.queue.drop 1) → t.dev.slot n = s.dev.slot n
  port : PortStands s t

/-- The rest of the command interface after a command that resets COMPASS: no command waits, every other command that was
posted or under way has FAILED with E_PART_RESET, and every other slot is as it was (R303). -/
structure AllEnded (s t : State) (slot : SlotId) : Prop where
  queue : t.dev.host.queue = []
  ended : ∀ n, n < 16 → n < s.dev.host.slots.length → n ≠ slot.val → (s.dev.slot n).st = .posted ∨ (s.dev.slot n).busy = true →
    Ended s t n true ePartReset (failObj ePartReset 0xFFF 11 partCompass).words
  slots : ∀ n, n ≠ slot.val → ¬(n < 16 ∧ ((s.dev.slot n).st = .posted ∨ (s.dev.slot n).busy = true)) →
    t.dev.slot n = s.dev.slot n
  port : PortStands s t

/-- The mailbox command of slot `slot` ends at once: the device is `d`, the slot holds the result, and nothing else
changes. -/
def Completes (i : Instr) (s : State) (slot : SlotId) (d : Dev) (failed : Bool) (code : Nat) (resp : List Word) : Prop :=
  ∃ t, exec i s = .next t ∧ Holds t d ∧ Ended s t slot failed code resp ∧ Served s t slot ∧ Outside s t

/-- The mailbox command of slot `slot` is accepted and runs on: the device is `d`, and nothing else changes. -/
def Continues (i : Instr) (s : State) (slot : SlotId) (d : Dev) : Prop :=
  ∃ t, exec i s = .next t ∧ Holds t d ∧ RunsOn s t slot ∧ Served s t slot ∧ Outside s t

/-- The mailbox command ends with a refusal or failure: the device is `d`, the slot FAILED with its words. -/
def Refused (i : Instr) (s : State) (slot : SlotId) (d : Dev) (f : Fail) : Prop :=
  Completes i s slot d true f.code f.words

/-- The command ends with the refusal that a check finds, the device as before, and else it finishes: the device is `d`. -/
def Checked (i : Instr) (s : State) (slot : SlotId) (f : Option Fail) (d : Dev) (code : Nat) (resp : List Word) : Prop :=
  match f with
  | some e => Refused i s slot s.dev e
  | none => Completes i s slot d false code resp

/-- The command is taken with ACCEPTED_DEFERRED: its effect waits for the next tick, which the response names first. -/
def Taken (i : Instr) (s : State) (slot : SlotId) (e : Effect) (resp : List Word) : Prop :=
  Completes i s slot (s.dev.defer s.dev.nextTick (s.dev.cmdOf slot).opcode e) false eDeferred (w36 s.dev.nextTick :: resp)

/-- The command finishes with ACCEPTED_DEFERRED naming a tick: the device is `d`. -/
def DefersTo (i : Instr) (s : State) (slot : SlotId) (d : Dev) (tick : Nat) (resp : List Word) : Prop :=
  Completes i s slot d false eDeferred (w36 tick :: resp)

/-- The command is accepted and runs on, the device being `d`, unless a check refuses it. -/
def Started (i : Instr) (s : State) (slot : SlotId) (f : Option Fail) (d : Dev) : Prop :=
  match f with
  | some e => Refused i s slot s.dev e
  | none => Continues i s slot d

/-- The command ends at once, and it changes more than the device: the state is `u`, but for events. -/
def EndsIn (i : Instr) (s : State) (slot : SlotId) (u : State) (failed : Bool) (code : Nat) (resp : List Word) : Prop :=
  ∃ t, exec i s = .next t ∧ Holds t u.dev ∧ Ended s t slot failed code resp ∧ Served s t slot ∧ Outside u t

/-- The command ends at once and resets COMPASS, which ends every other command: the state is `u`, but for events. -/
def EndsAll (i : Instr) (s : State) (slot : SlotId) (u : State) (failed : Bool) (code : Nat) (resp : List Word) : Prop :=
  ∃ t, exec i s = .next t ∧ Holds t u.dev ∧ Ended s t slot failed code resp ∧ AllEnded s t slot ∧ Outside u t

/-- The command is accepted and runs on, and the state is `u`, but for events. Where it is to end no other command (`alone`), the
rest of the command interface is as after any command. -/
def RunsWhere (i : Instr) (s : State) (slot : SlotId) (u : State) (alone : Prop) : Prop :=
  ∃ t, exec i s = .next t ∧ Holds t u.dev ∧ RunsOn s t slot ∧ (alone → Served s t slot) ∧ Outside u t

/-- The same for a command that ends no other. -/
def RunsIn (i : Instr) (s : State) (slot : SlotId) (u : State) : Prop := RunsWhere i s slot u True

/-- The mailbox commands: the slot, and the form, checks and body of the command. -/
def mailboxOf (i : Instr) : Option (SlotId × MbCommand) :=
  match i with
  | .identify slot => some (slot, mbIdentify)
  | .getState slot => some (slot, mbGetState)
  | .resetPartition slot => some (slot, mbResetPartition)
  | .setPolicy slot => some (slot, mbSetPolicy)
  | .getHealth slot => some (slot, mbGetHealth)
  | .setChannel slot => some (slot, mbSetChannel)
  | .setLevels slot => some (slot, mbSetLevels)
  | .autoLevel slot => some (slot, mbAutoLevel)
  | .checkInput slot => some (slot, mbCheckInput)
  | .getChannelStatus read => some (read.slot, mbGetChannelStatus read.hw)
  | .setTimebase slot => some (slot, mbSetTimebase)
  | .setRefPolicy slot => some (slot, mbSetRefPolicy)
  | .setClkout slot => some (slot, mbSetClkout)
  | .commitClocks slot => some (slot, mbCommitClocks)
  | .stepBearing slot => some (slot, mbStepBearing)
  | .setSpread slot => some (slot, mbSetSpread)
  | .getTimebase slot => some (slot, mbGetTimebase)
  | .setGraticule slot => some (slot, mbSetGraticule)
  | .defineItem slot => some (slot, mbDefineItem)
  | .coefficientChunk slot => some (slot, mbCoefficientChunk)
  | .deleteItem slot => some (slot, mbDeleteItem)
  | .arm slot => some (slot, mbArm)
  | .start slot => some (slot, mbStart)
  | .hold slot => some (slot, mbHold)
  | .resume slot => some (slot, mbResume)
  | .stop slot => some (slot, mbStop)
  | .readReadings slot => some (slot, mbReadReadings)
  | .setResultRing slot => some (slot, mbSetResultRing)
  | .getBudget slot => some (slot, mbGetBudget)
  | .calibrate slot => some (slot, mbCalibrate)
  | .setCalPolicy slot => some (slot, mbSetCalPolicy)
  | .deskew slot => some (slot, mbDeskew)
  | .getCal slot => some (slot, mbGetCal)
  | .freezeCal slot => some (slot, mbFreezeCal)
  | .defineTraverse slot => some (slot, mbDefineTraverse)
  | .resizeTraverse slot => some (slot, mbResizeTraverse)
  | .deleteTraverse slot => some (slot, mbDeleteTraverse)
  | .freezeTraverse slot => some (slot, mbFreezeTraverse)
  | .defineContour slot => some (slot, mbDefineContour)
  | .clearContour slot => some (slot, mbClearContour)
  | .defineChartBuffer slot => some (slot, mbDefineChartBuffer)
  | .setChartMode slot => some (slot, mbSetChartMode)
  | .setLegend slot => some (slot, mbSetLegend)
  | .setCrcRect slot => some (slot, mbSetCrcRect)
  | .renderContour slot => some (slot, mbRenderContour)
  | .atlasFormat slot targets => some (slot, mbAtlasFormat targets)
  | .atlasOpen slot targets => some (slot, mbAtlasOpen targets)
  | .atlasAppendPolicy slot => some (slot, mbAtlasAppendPolicy)
  | .atlasRead slot => some (slot, mbAtlasRead)
  | .atlasFence slot => some (slot, mbAtlasFence)
  | .atlasHealth slot => some (slot, mbAtlasHealth)
  | .atlasScrub slot => some (slot, mbAtlasScrub)
  | .storeSettings slot => some (slot, mbStoreSettings)
  | .loadSettings slot => some (slot, mbLoadSettings)
  | .updateFirmware slot => some (slot, mbUpdateFirmware)
  | .activateFirmware slot => some (slot, mbActivateFirmware)
  | .getHoldup slot => some (slot, mbGetHoldup)
  | .defineMask slot => some (slot, mbDefineMask)
  | .setTriggerRoute slot => some (slot, mbSetTriggerRoute)
  | .forceTrigger slot => some (slot, mbForceTrigger)
  | .alignArm slot => some (slot, mbAlignArm)
  | .alignMeasure slot => some (slot, mbAlignMeasure)
  | .alignApply slot => some (slot, mbAlignApply)
  | .selfTest slot fails badChannels => some (slot, mbSelfTest fails badChannels)
  | .setMonitor slot => some (slot, mbSetMonitor)
  | _ => none

/-! ## Events -/

/-- The command leads to `u`, up to the end of the step: signals are sensed, messages go out, the Watch domain sees the
state. -/
def Becomes (i : Instr) (s u : State) : Prop := exec i s = .next u.settle

/-- The same, where only the device takes part. -/
def Leads (i : Instr) (s : State) (d : Dev) : Prop := Becomes i s { s with dev := d }

/-! ## Who may write what -/

/-- Commands that write registers of the relay: host accesses, resets, and the ticks and the end of BOOT at which a bank
is loaded. -/
def writesRelay (i : Instr) : Bool :=
  match i with
  | .erSrcCfgWrite .. | .erPendRead .. | .erClaimH | .erCompleteH .. | .erCompleteFlush | .erFaultWrite .. | .registerWrite ..
  | .powerOnReset .. | .perstNAssert | .powerLoss | .bootEnd | .frameTick .. => true
  | _ => false

/-- Commands that write registers of the Watch domain or the Gazetteer: host and SMBus accesses, the commands and events
of monitors, hold-up, settings and firmware, power and resets (a reset COMPASS drops a store or an update), ticks and the
end of BOOT, and what enters FAULT or SAFE. -/
def writesWatch (i : Instr) : Bool :=
  match i with
  | .setMonitor .. | .getHoldup .. | .storeSettings .. | .activateFirmware .. | .resetPartition .. | .wmLatchWrite .. | .erWakeWrite ..
  | .registerWrite .. | .smbusBlockRead .. | .smbusBlockWrite .. | .alertResponse | .smbusTimeout | .gzBoardUpdate ..
  | .monitorExcursion .. | .latchPeriodEnd .. | .holdupMeasured .. | .pwrFail | .pwrFailClear | .powerOnReset ..
  | .perstNAssert | .perstNRelease .. | .powerLoss | .bootEnd | .gazetteerWriteDone .. | .imageDmaReadDone ..
  | .frameTick .. | .coarseMismatch | .thermalEvaluation .. | .thermalHw | .supplyFault .. | .partitionStuck .. | .eccError ..
  | .lockWindowEnd .. | .watchdog => true
  | _ => false

/-- Commands that write the capture store: the tick and the commits, maps, renders, reads of the Atlas, host writes, a
power-down of CAPTURE, and resets. -/
def writesStore (i : Instr) : Bool :=
  match i with
  | .frameTick .. | .traverseCommit .. | .contourDecay .. | .renderDone .. | .flashReadDone .. | .registerWrite ..
  | .resetPartition .. | .powerOnReset .. | .perstNAssert | .powerLoss => true
  | _ => false

/-- Resets of the main part. -/
def resetsMain (i : Instr) : Bool :=
  match i with
  | .powerOnReset .. | .perstNAssert | .powerLoss => true
  | _ => false

end Machine

end Sys2Proof
end

