-- ==== Sys2Proof/Certificates/Slice0/Obligations.lean ====
section
/-! DEFINITION. The statements for the provers. Statements about one command say what device, slot and response the command
leaves (Safety.lean); statements about every command say what no command does. -/

open Sys2Proof Sys2Proof.Machine

/-- With a command at the front of the queue, a step is that command's execution on the state with the queue's rest.
With an empty queue the block idles, which is the model's own choice (log 1). (spec/opcode_table.json, R297) -/
def Obligations.StepRunsTheFrontCommand : Prop :=
  ∀ s : State,
    (∀ (c : Instr) (rest : List Instr), s.pending = c :: rest → step s = exec c { s with pending := rest }) ∧
    (s.pending = [] → step s = .next s)

/-- Every command of the table, with any operands, answers a next state from every state: none faults and none is
refused, since what the block cannot take leaves it as it is or is answered in the mailbox. No execution changes the
queue. Where this says more than the rules, it is the model's choice: log 3. (spec/opcode_table.json, R297, R316) -/
def Obligations.EveryCommandAnswersANextState : Prop :=
  ∀ (i : Instr) (s : State), ∃ t, exec i s = .next t ∧ t.pending = s.pending

/-- The invariant Settled holds right after reset: no signal waits to be sensed, the Watch domain shows the operating
state, ALERT_N and H_WAKE are released, and no source waits for delivery. Where this says more than the rules, it is
the model's choice: log 22. (R8, R339, R345, R350, R351, R385) -/
def Obligations.ResetIsSettled : Prop :=
  Settled State.reset

/-- If Settled holds and a step answers a next state, Settled holds there: no signal waits to be sensed; the Watch
domain shows the operating state and FAULT_N is low in FAULT only; ALERT_N is asserted only while SEEN or H_WAKE
holds it and PERST_N is released; H_WAKE is set only while H sleeps; every enabled level-sense entry of ER_WATCH
whose input is active has its SEEN bit; every priority with a source deliverable to H has a message outstanding; no
source waits for a Compass core that could take it (a core claims at once: the model's choice, log 93); and a level
source for H alone that is active and unclaimed is pending. Where this says more than the rules, it is the model's
choice: log 92, 93 and 171. (R339, R344, R345, R349, R350, R351, R385) -/
def Obligations.EveryStepKeepsSettled : Prop :=
  ∀ s t : State, Settled s → step s = .next t → Settled t

/-- A command that writesRelay does not name leaves the relay's registers as they are: the configuration and mask of
every source, the shadows, H's stack and floor, and the order-fault bits with their record. Events reach the relay's
pending and lost bits, its input levels and its messages only. (R336, R337, R340, R346, R347, R348) -/
def Obligations.OnlyNamedCommandsWriteTheRelay : Prop :=
  ∀ (i : Instr) (s t : State), writesRelay i = false → exec i s = .next t → s.relay.Same t.relay

/-- A command that writesWatch does not name leaves the Watch domain as it is but for SEEN, ALERT_N, H_WAKE, the posted
state and FAULT_N: monitors, latches and collision counters, the hold-up measurement, ER_WATCH, the pins and straps,
and the whole Gazetteer. (R53, R54, R55, R56, R349, R351, R356) -/
def Obligations.OnlyNamedCommandsWriteTheWatchDomain : Prop :=
  ∀ (i : Instr) (s t : State), writesWatch i = false → exec i s = .next t → s.watch.Same t.watch

/-- A command that writesStore does not name leaves every word of the capture store as it reads. The ones named are the
tick, the commits of traverses, a decay, the end of a render, a codeword read from flash, a write of the host, a
power-down of CAPTURE and the resets. (R223, R224, R234, R246, R250, R253, R280) -/
def Obligations.OnlyNamedCommandsWriteTheStore : Prop :=
  ∀ (i : Instr) (s t : State), writesStore i = false → exec i s = .next t →
    ∀ a, Mem.read t.dev.cap.mem a = Mem.read s.dev.cap.mem a

/-- If the capture store lists its words at strictly rising addresses and lists no word that is zero, every step that
answers a next state keeps that form. Right after reset the store lists nothing, so it has the form. (R223, R361) -/
def Obligations.EveryStepKeepsTheStoreCanonical : Prop :=
  (∀ s t : State, Mem.wf s.dev.cap.mem → step s = .next t → Mem.wf t.dev.cap.mem) ∧ State.reset.dev.cap.mem = [] ∧
    Mem.wf State.reset.dev.cap.mem

/-- No command but a write of GS_FLAGS, a write to a register and a reset of the main part clears a bit of GS_FLAGS.
(R25) -/
def Obligations.FlagsStayUntilWritten : Prop :=
  ∀ (i : Instr) (s t : State), resetsMain i = false → (∀ v h, i ≠ .gsFlagsWrite v h) → (∀ w, i ≠ .registerWrite w) →
    exec i s = .next t → t.dev.gs.flags &&& s.dev.gs.flags = s.dev.gs.flags

/-- A command other than FRAME_TICK, the declaration of lock and the resets leaves the frame number and the count of its
tick as they are. A FRAME_TICK with the counters running, out of PERST_N, and with no move of ALIGN_APPLY due opens
the next frame, whose number the model keeps unwrapped (the counter of R177 is its residue modulo 2^40); with no
reference return due and no deferred setting that could move the scale, and outside the start-up, it opens at the
nominal count. Where a move of ALIGN_APPLY is due the unwrapped number rises too. Where this says more than the
rules, it is the model's choice: log 58. (R59, R177, R178, R141) -/
def Obligations.OnlyTicksAdvanceTheFrame : Prop :=
  (∀ (i : Instr) (s t : State), resetsMain i = false → (∀ x, i ≠ .frameTick x) → (∀ p a b, i ≠ .lockWindowEnd p a b) →
    exec i s = .next t → t.dev.tb.frame = s.dev.tb.frame ∧ t.dev.tb.tickCount = s.dev.tb.tickCount) ∧
  (∀ (s t : State) (x : TickInputs), s.watch.perstN = true → s.dev.tb.running = true → s.dev.tb.align.move = none →
    exec (.frameTick x) s = .next t →
      t.dev.tb.frame = s.dev.tb.frame + 1 ∧
      (s.dev.tb.returnDue = none → s.dev.fw.deferred = [] → s.boot.running = false →
        t.dev.tb.tickCount = s.dev.tb.nominal (s.dev.tb.frame + 1))) ∧
  (∀ (s t : State) (x : TickInputs), s.watch.perstN = true → s.dev.tb.running = true → s.dev.tb.align.move ≠ none →
    exec (.frameTick x) s = .next t → s.dev.tb.frame + 1 ≤ t.dev.tb.frame)

/-- If the priorities on H's stack fall strictly from its top, a step that answers a next state keeps that: a claim
pushes only a source above the running priority. (R346) -/
def Obligations.StackPrioritiesRise : Prop :=
  ∀ s t : State, s.relay.stack.Pairwise (fun a b => b.prio < a.prio) → step s = .next t →
    t.relay.stack.Pairwise (fun a b => b.prio < a.prio)

/-- Right after reset no command waits; the operating state is BOOT, with generation, flags, collision counter and frame
at 0; every slot is FREE; every comparator is in PARK with threshold 5,461 and hysteresis 10, EDGE_SEL is BOTH and D
is 1; k is 16; the legend entry i is (i, i, i); of the Chart registers MODE, SCAN_EN, CRC_EN, CHECK, the staged and
the live address, the pending slot, REFUSED, the commit frame, the frame and the line, CP_BG, the underrun count and
line, and VALID, MISMATCH, FRAME and COUNT, VALUE and EXPECT of the CRC are 0; every source of the relay has PRIO,
SENSE and TARGETS 0 and H's stack is empty; monitors 0 to 7 are enabled and 8 to 15 are not; the capture store lists
no word; no traverse, map, item or buffer is defined. Where this says more than the rules, it is the model's choice:
log 27. (R8, R31, R57, R120, R148, R177, R251, R259, R274, R295, R311, R337) -/
def Obligations.ResetValues : Prop :=
  let s := State.reset
  s.pending = [] ∧ s.dev.gs.op = .boot ∧ s.dev.gs.gen = 0 ∧ s.dev.gs.flags = 0 ∧ s.dev.gs.flagsAgain = 0 ∧
  s.dev.tb.frame = 0 ∧ s.dev.tb.coarse = 0 ∧ s.dev.tb.epoch = 0 ∧ s.dev.tb.k = 16 ∧
  s.dev.host.slots.length = 16 ∧ (∀ x ∈ s.dev.host.slots, x.st = .free) ∧
  s.dev.chans.length = 96 ∧
  (∀ x ∈ s.dev.chans, x.a.mode = .park ∧ x.b.mode = .park ∧ x.cfg.thrA = 5461 ∧ x.cfg.hysA = 10 ∧ x.cfg.thrB = 5461 ∧
    x.cfg.hysB = 10 ∧ x.cfg.edgeSel = .both ∧ x.cfg.decim = 1 ∧ x.cfg.lineMode = none) ∧
  (∀ i, i < 256 → s.dev.cap.chart.legend[i]? = some (BitVec.ofNat 24 (i * 65536 + i * 256 + i))) ∧
  s.dev.cap.chart.mode = 0 ∧ s.dev.cap.chart.scanEn = false ∧ s.dev.cap.chart.live = { addr := 0, stride := 0, format := 0 } ∧
  s.dev.cap.chart.crcEn = false ∧ s.dev.cap.chart.check = 0 ∧ s.dev.cap.chart.staged = { addr := 0, stride := 0, format := 0 } ∧
  s.dev.cap.chart.slot = none ∧ s.dev.cap.chart.refused = false ∧ s.dev.cap.chart.commitFrame = 0 ∧
  s.dev.cap.chart.frame = 0 ∧ s.dev.cap.chart.line = 0 ∧ s.dev.cap.chart.bg = 0 ∧ s.dev.cap.chart.underruns = 0 ∧
  s.dev.cap.chart.lastUnderrun = 0 ∧ s.dev.cap.chart.crcValid = 0 ∧ s.dev.cap.chart.crcMismatch = 0 ∧
  s.dev.cap.chart.crcFrame = 0 ∧ s.dev.cap.chart.crcCount = 0 ∧ s.dev.cap.chart.crcValue = List.replicate 8 0 ∧
  s.dev.cap.chart.crcExpect = List.replicate 8 0 ∧
  s.relay.sources.length = 384 ∧ (∀ x ∈ s.relay.sources, x.cfg.prio = 0 ∧ x.cfg.sense = 0 ∧ x.cfg.targets = 0 ∧ x.pend = false) ∧
  s.relay.stack = [] ∧
  (∀ m, m < 16 → (s.watch.monitor m).enable = decide (m < 8)) ∧
  s.dev.cap.mem = [] ∧ s.dev.cap.traverses = [] ∧ s.dev.cap.maps = [] ∧ s.dev.survey.items = [] ∧ s.dev.cap.chart.buffers = [] ∧
  s.dev.atlas.policy.rdFrames = 1024 ∧ s.dev.atlas.policy.itemHi = 1023

/-- A mailbox command whose slot is not the head of the doorbell order, or that comes in BOOT, without the COMPASS
partition or with another command posted in the slot, leaves the state as it is: the posted command stays POSTED.
Where this says more than the rules, it is the model's choice: log 4. (R297, R315, R364, R380) -/
def Obligations.CommandsWaitTheirTurn : Prop :=
  ∀ (i : Instr) (s : State) (slot : SlotId) (m : MbCommand), mailboxOf i = some (slot, m) → s.dev.next m.form slot = false →
    Becomes i s s

/-- For each of the 65 mailbox commands that is next: a COUNT or OPTIONS bit it does not take fails with E_PARAM naming
word 0; else a parameter word at fault fails with E_PARAM naming the lowest such word; else a state in which the
command is not legal fails with E_STATE; else a command of its group under way fails with E_BUSY. The device is
unchanged but for LAST_ERROR and the slot, and but for the staging that a refused COEFFICIENT_CHUNK or DEFINE_MASK
chunk out of its order discards; the response of an E_PARAM of ATLAS_READ gives the oldest and the newest SEQ
programmed, that of any other command nothing behind the fault word. Where this says more than the rules, it is the
model's choice: log 6 and 7. (R5, R296, R297, R299, R302, R316, R318, R319, R326, R330, R332) -/
def Obligations.AcceptanceRefusesInOrder : Prop :=
  ∀ (i : Instr) (s : State) (slot : SlotId) (m : MbCommand), mailboxOf i = some (slot, m) → s.dev.next m.form slot = true →
    let c := s.dev.cmdOf slot
    let d1 := m.onFault (s.dev.take slot) c
    let resp := m.faultResp (s.dev.take slot)
    (m.form ≠ mbCoefficientChunk.form → m.form ≠ mbDefineMask.form → d1 = s.dev.take slot) ∧
    (m.form ≠ mbAtlasRead.form → resp = []) ∧
    (m.form.badHeader c = true → Refused i s slot d1 { failAt eParam 0 with resp := resp }) ∧
    (m.form.badHeader c = false → ∀ n, leastFault (m.faultsOf c) = some n →
      Refused i s slot d1 { failAt eParam n with resp := resp }) ∧
    (m.form.badHeader c = false → leastFault (m.faultsOf c) = none → c.legalIn s.dev.judged = false →
      Refused i s slot s.dev (failPlain eState)) ∧
    (m.form.badHeader c = false → leastFault (m.faultsOf c) = none → c.legalIn s.dev.judged = true →
      (s.dev.take slot).excluded c = true → Refused i s slot s.dev (failPlain eBusy))

/-- Out of PERST_N and with HOST up, a doorbell on a slot that is FREE, DONE or FAILED puts the slot behind the others,
gives it the tag and the state POSTED, and clears ERROR, PROGRESS, PARTIAL and every response word. While firmware
serves, the commands at the front of the order whose opcode is in no table then leave it and end FAILED with
E_OPCODE, the one posted now among them when it gets there; the rest of the order stands as it was, and so does
every other slot. From any other state of the slot, or with the registers closed, the doorbell is ignored. With the
registers open: a cancel whose tag differs changes nothing; one with the tag of a POSTED command makes it FAILED
with E_CANCELLED, and the slot leaves the order, from whose front unknown opcodes are served as above; one with the
tag of a command under way marks the runs of that slot, which stop at their safe point, and leaves the slot as it
is; one that reaches a slot that is FREE, DONE or FAILED changes nothing. Where this says more than the rules, it is
the model's choice: log 4. (R295, R296, R297, R300, R301) -/
def Obligations.DoorbellsPostAndCancelsEnd : Prop :=
  ∀ (s : State) (slot : SlotId) (tag : BitVec 16),
    let x := s.dev.slot slot
    let can := x.st = .free ∨ x.st = .done ∨ x.st = .failed
    (s.open = true → can → slot.val < s.dev.host.slots.length →
      let q := s.dev.host.queue ++ [slot.val]
      let skips := if s.dev.serves then q.takeWhile s.dev.unknown else []
      ∃ t, exec (.mbDoorbell slot tag) s = .next t ∧
        t.dev.host.queue = (if s.dev.serves then q.dropWhile s.dev.unknown else q) ∧
        (slot.val ∉ skips → t.dev.slot slot = { x with tag := tag, st := .posted, error := 0, progress := 0, partialWords := 0,
                                                       resp := List.replicate 64 0 }) ∧
        (slot.val ∈ skips → (t.dev.slot slot).st = .failed ∧ (t.dev.slot slot).error = BitVec.ofNat 8 eOpcode ∧
          (t.dev.slot slot).tag = tag ∧ (t.dev.slot slot).resp = fit 64 0 (failAt eOpcode 0).words) ∧
        (∀ n, n ≠ slot.val → n ∈ skips → n < s.dev.host.slots.length → Ended s t n true eOpcode (failAt eOpcode 0).words) ∧
        (∀ n, n ≠ slot.val → n ∉ skips → t.dev.slot n = s.dev.slot n) ∧
        PortStands s t ∧ Holds t s.dev ∧ Outside s t) ∧
    (s.open = false ∨ ¬can → Becomes (.mbDoorbell slot tag) s s) ∧
    (s.open = false ∨ x.tag ≠ tag ∨ (x.st ≠ .posted ∧ x.busy = false) → Becomes (.mbCancel slot tag) s s) ∧
    (s.open = true → x.tag = tag → x.st = .posted → slot.val < s.dev.host.slots.length →
      let q := s.dev.host.queue.filter (· != slot.val)
      let skips := if s.dev.serves then q.takeWhile s.dev.unknown else []
      ∃ t, exec (.mbCancel slot tag) s = .next t ∧
        t.dev.host.queue = (if s.dev.serves then q.dropWhile s.dev.unknown else q) ∧
        (t.dev.slot slot).st = .failed ∧ (t.dev.slot slot).error = BitVec.ofNat 8 eCancelled ∧ (t.dev.slot slot).tag = tag ∧
        (x.partialWords = 0 → (t.dev.slot slot).resp = fit 64 0 (failPlain eCancelled).words) ∧
        (∀ n, n ≠ slot.val → n ∈ skips → n < s.dev.host.slots.length → Ended s t n true eOpcode (failAt eOpcode 0).words) ∧
        (∀ n, n ≠ slot.val → n ∉ skips → t.dev.slot n = s.dev.slot n) ∧ PortStands s t ∧ Holds t s.dev ∧
        Outside { s with boot := { s.boot with loading := s.boot.loading && slot.val != 0 } } t) ∧
    (s.open = true → x.tag = tag → x.st ≠ .posted → x.busy = true →
      Becomes (.mbCancel slot tag) s { s with
        dev := s.dev.cancelRuns slot
        boot := { s.boot with cancelled := s.boot.cancelled || s.dev.underWay slot 0x803 } })

/-- Accepted, each of IDENTIFY, GET_STATE, GET_HEALTH, GET_BUDGET and READ_READINGS finishes OK at once, the device
unchanged. READ_READINGS fails instead with CAPTURE in reset or powered down, naming it. IDENTIFY gives the part and
grade, the silicon revision and firmware version, the serial number, and in its last word the active image, the
anti-rollback counter, the Atlas population and the sampled straps; GET_STATE its summary, run log or routes by
WHAT; GET_HEALTH the page asked for; GET_BUDGET the capacity, the largest load, the loads of the groups, and
overruns with the worst lateness; READ_READINGS the pieces of the readings asked for, in order. Where this says more
than the rules, it is the model's choice: log 8, 65 and 66. (R322, R325, R326, R188, R192, R219, R185, R186, R352,
R362, R378) -/
def Obligations.QueriesOfTheDevice : Prop :=
  ∀ (s : State) (slot : SlotId),
    let c := s.dev.cmdOf slot
    let d := s.dev
    let answers := fun (i : Instr) (resp : List Word) => Completes i s slot d false eOk resp
    (Ready s slot mbIdentify → answers (.identify slot)
      ([word [(35, 20, 0x7E5A), (19, 4, 0x0960), (3, 0, if s.watch.gaz.identity.gradeS then 2 else 1)],
        word [(35, 28, Config.siRev.toNat), (23, 0, d.gs.fwVersion.toNat)]] ++ words64 s.watch.gaz.identity.serial.toNat ++
       [word [(1, 0, s.boot.activeSlot), (17, 2, s.watch.gaz.rollback), (25, 18, d.atlas.population),
          (33, 32, s.watch.straps.bootSrc.toNat), (31, 30, s.watch.straps.peWidth.toNat),
          (29, 26, s.watch.straps.devAddr.toNat)]])) ∧
    (Ready s slot mbGetState → answers (.getState slot)
      (if c.f 1 35 32 = 0 then d.summary else if c.f 1 35 32 = 1 then d.survey.logWords (c.f 1 31 0) else d.survey.routeWords)) ∧
    (Ready s slot mbGetHealth → answers (.getHealth slot) (d.healthPage (c.f 1 3 0))) ∧
    (Ready s slot mbGetBudget → answers (.getBudget slot)
      (let l := d.loads d.committedItems (d.budgetKs d.transitionTick) d.engineDepth
       [w36 (capacity d.tb.k d.engineDepth % 2 ^ 32), w36 (maxN l % 2 ^ 16)] ++ (List.range 16).map (loadWord l) ++
         [w36 d.survey.overruns, w36 d.survey.lateness])) ∧
    (Ready s slot mbReadReadings → Checked (.readReadings slot) s slot (d.partsFault [partCapture]) d eOk
      (pieces d.survey ((range2 1 c.count).map c.w)))

/-- Accepted, GET_TIMEBASE answers GS_TB with the locks, REF_PHASE, the steering, the link delay and residual and the
frames a walk still has; GET_CAL the calibration log, the lines' spans or the deskew constants by WHAT; ATLAS_HEALTH
the journal, the targets or the codeword counts by page. Each finishes OK at once, the device unchanged. (R324,
R327, R330, R123, R290) -/
def Obligations.QueriesOfTheUnits : Prop :=
  ∀ (s : State) (slot : SlotId),
    let c := s.dev.cmdOf slot
    let d := s.dev
    let a := d.atlas
    let answers := fun (i : Instr) (resp : List Word) => Completes i s slot d false eOk resp
    (Ready s slot mbGetTimebase → answers (.getTimebase slot)
      ([word [(15, 0, d.tb.gsTb.toNat), (16, 16, b2n d.tb.steerLimit),
          (20, 17, b2n d.tb.chart.locked + 2 * b2n d.tb.store.locked + 4 * b2n d.tb.engine.locked + 8 * b2n d.tb.meridian.locked),
          (22, 21, d.tb.lastLoss)], w36 (codeOf 32 d.tb.refPhase)] ++ wordsT72 d.tb.steer ++ wordsT72 d.tb.align.linkDelay ++
        [w36 (codeOf 36 d.tb.align.residual), w36 d.tb.walkLeft])) ∧
    (Ready s slot mbGetCal → answers (.getCal slot)
      (if c.f 1 35 32 = 0 then d.cal.logWords (c.f 1 31 0)
       else
         let x := d.chan (c.f 1 31 0 % 128)
         if c.f 1 35 32 = 1 then w36 (d.gs.epochs % 2 ^ 32) :: x.lines.flatMap Line.calWords else x.deskew.flatMap Deskew.words)) ∧
    (Ready s slot mbAtlasHealth → answers (.atlasHealth slot)
      (let first := c.f 1 6 2
       if c.f 1 1 0 = 0 then a.healthJournal
       else if c.f 1 1 0 = 1 then (range2 first (min 31 (first + 15))).flatMap a.healthTarget
       else (range2 first 7).flatMap fun ch => (a.codewords.getD ch []).flatMap words72))

/-- Accepted with the channel's bank up, GET_CHANNEL_STATUS finishes OK with the two comparators (outputs, SETTLED,
modes and the latches that LATCH selects), the line mode and the loss counts as they stood. With CLEAR a STICKY
channel's latches ROSE and FELL are cleared; with LATCH = FRAME nothing is. A latch that a transition sets at that
instant (`hw`) is reported as set and stays set; a comparator in PARK or UNSETTLED has none. The output of an
UNSETTLED comparator is a free value. With the bank in reset or powered down it fails naming the partition, and
nothing changes. Where this says more than the rules, it is the model's choice: log 15 and 36. (R43, R45, R81, R323,
R378) -/
def Obligations.ChannelStatusReadsAndClears : Prop :=
  ∀ (s : State) (slot : SlotId) (hw : BitVec 4), Ready s slot (mbGetChannelStatus hw) →
    let c := s.dev.cmdOf slot
    let n := c.f 1 35 29
    let set : Comparator → Bool → Bool → Comparator := fun k rose fell =>
      if k.mode = .park ∨ k.settled = false then k else { k with rose := k.rose || rose, fell := k.fell || fell }
    let setBoth : Channel → Channel := fun y =>
      { y with a := set y.a (bit hw 3) (bit hw 2), b := set y.b (bit hw 1) (bit hw 0) }
    let x := setBoth (s.dev.chan n)
    let free := s.dev.gs.free
    let d := s.dev.onGs fun g => { g with free := free + 1 + 1 }
    Checked (.getChannelStatus ⟨slot, hw⟩) s slot (s.dev.partFault (bankOf n))
      (d.updChan n fun y => setBoth <|
        if c.b 0 20 && !y.cfg.latchFrame then
          { y with a := { y.a with rose := false, fell := false }, b := { y.b with rose := false, fell := false } }
        else y)
      eOk
      ([word [(35, 30, compField x.a x.cfg.latchFrame (Config.unsettledOutput free)),
          (29, 24, compField x.b x.cfg.latchFrame (Config.unsettledOutput (free + 1))), (23, 22, x.mode.code)]] ++
        words72 x.lostTotal ++ [w36 x.lastLoss] ++ words72 x.stampCheckTotal ++ words72 x.disagreeTotal)

/-- Accepted, SET_POLICY, SET_TIMEBASE, SET_REF_POLICY, CLEAR_CONTOUR and DELETE_ITEM finish with ACCEPTED_DEFERRED
naming the next tick, and their effect joins the effects that wait, in acceptance order; nothing else changes.
SET_TIMEBASE with REF_SRC = SYNC while k in force is above 20, or one pending (the model's choice), and DELETE_ITEM
of an item that does not exist, fail with E_PARAM naming word 1; CLEAR_CONTOUR fails with CAPTURE in reset or
powered down. Where this says more than the rules, it is the model's choice: log 53. (R18, R22, R30, R120, R176,
R250, R297, R298, R324, R325, R329, R378) -/
def Obligations.SettingsWaitForTheNextTick : Prop :=
  ∀ (s : State) (slot : SlotId),
    let c := s.dev.cmdOf slot
    let d := s.dev
    (Ready s slot mbSetPolicy → Taken (.setPolicy slot) s slot (.policy (c.b 1 0)) []) ∧
    (Ready s slot mbSetTimebase →
      if c.f 1 1 0 = 2 ∧ d.kAbove20 = true then Refused (.setTimebase slot) s slot d (failAt eParam 1)
      else Taken (.setTimebase slot) s slot (.timebase
        { d.tb.cfg with refSrc := c.f 1 1 0, ref100MHz := c.b 1 2, outerBw := c.f 1 5 3, innerBw := c.f 1 7 6 }) []) ∧
    (Ready s slot mbSetRefPolicy → Taken (.setRefPolicy slot) s slot (.refPolicy (c.f 1 1 0) (c.f 1 13 2)) []) ∧
    (Ready s slot mbClearContour → match d.partsFault [partCapture] with
      | some f => Refused (.clearContour slot) s slot d f
      | none => Taken (.clearContour slot) s slot (.clearContour (BitVec.ofNat 16 (c.f 1 15 0))) []) ∧
    (Ready s slot mbDeleteItem →
      if d.committedItems.any (fun x => x.1 == c.f 1 35 26) = true then
        Taken (.deleteItem slot) s slot (.deleteItem (c.f 1 35 26)) []
      else Refused (.deleteItem slot) s slot d (failAt eParam 1))

/-- Accepted, SET_CHANNEL is refused where the settings that would be in force break R41, R42, R151 or R249 or a bank is
not up, and so is SET_LEVELS; the refusal changes no channel. Otherwise the command finishes with ACCEPTED_DEFERRED,
and its settings for the channels FIRST to LAST join the effects of the next tick. Where this says more than the
rules, it is the model's choice: log 7 and 8. (R29, R30, R38, R41, R42, R148, R151, R249, R323, R378) -/
def Obligations.ChannelSettingsWaitForTheNextTick : Prop :=
  ∀ (s : State) (slot : SlotId),
    let c := s.dev.cmdOf slot
    let d := s.dev
    let waits := fun (e : Effect) => d.defer d.nextTick c.opcode e
    (Ready s slot mbSetChannel → Checked (.setChannel slot) s slot (d.setChannelFail c)
      (waits (.channel (c.f 1 35 29) (c.f 1 28 22) c.chanCfg)) eDeferred [w36 d.nextTick]) ∧
    (Ready s slot mbSetLevels → Checked (.setLevels slot) s slot (d.setLevelsFail c)
      (waits (.levels (c.f 1 35 29) (c.f 1 28 22) (c.b 1 21) (c.b 1 20) (c.f 2 35 22) (c.f 2 21 16) (c.f 3 35 22) (c.f 3 21 16)))
      eDeferred [w36 d.nextTick])

/-- Accepted, DEFINE_ITEM is checked against the configuration with every accepted change; it answers the tick, its
reading's words and those of all items, and its definition waits. SET_TRIGGER_ROUTE is refused as a whole or waits.
DEFINE_CONTOUR of KIND 0 deletes the map at the tick; of another kind it is checked, keeps the map's pages or takes
the lowest free 257 (or fails with E_RESOURCE), answers its base, and waits. Where this says more than the rules, it
is the model's choice: log 7 and 79. (R147, R200, R201, R205, R218, R242, R249, R306, R325, R329, R332) -/
def Obligations.DefinitionsWaitForTheNextTick : Prop :=
  ∀ (s : State) (slot : SlotId),
    let c := s.dev.cmdOf slot
    let d := s.dev
    let waits := fun (e : Effect) => d.defer d.nextTick c.opcode e
    (Ready s slot mbDefineItem →
      let n := c.f 1 35 26
      Checked (.defineItem slot) s slot (d.defineItemFail n c.item) (waits (.item n c.item)) eDeferred
        [w36 d.nextTick, w36 c.item.words, w36 (totalWords (withItem d.committedItems n c.item))]) ∧
    (Ready s slot mbSetTriggerRoute →
      Checked (.setTriggerRoute slot) s slot (d.routeFail c) (waits (.routes c.newRoutes c.newLines)) eDeferred [w36 d.nextTick]) ∧
    (Ready s slot mbDefineContour →
      let n := c.f 1 35 32
      let m := c.mapCfg
      if m.kind = 0 then Taken (.defineContour slot) s slot (.deleteContour n) [w36 ((d.mapBase n).getD 0)]
      else match d.contourFail n m with
        | some f => Refused (.defineContour slot) s slot d f
        | none =>
          match (d.mapBase n).or ((firstFit (d.runs none) mapPages).map (· * pageSize)) with
          | some base => Taken (.defineContour slot) s slot (.contour n m base) [w36 base]
          | none => Refused (.defineContour slot) s slot d (failPlain eResource))

/-- Accepted, a COEFF chunk of DEFINE_ITEM that does not follow in order discards the staged set and fails with E_PARAM.
One that leaves taps wanting is staged and finishes with ACCEPTED_DEFERRED. The last one is checked for the guard of
its items and the budget, empties the staging, and its set applies at the next tick. DEFINE_MASK does the same with
segments, without those checks. A chunk out of order that is refused for a fault of its words discards the staging
as well; one in order that is so refused keeps it. Where this says more than the rules, it is the model's choice:
log 63. (R203, R205, R215, R325, R326, R332) -/
def Obligations.ChunksAreStagedUntilWhole : Prop :=
  ∀ (s : State) (slot : SlotId),
    let c := s.dev.cmdOf slot
    let d := s.dev
    let t := d.nextTick
    (Ready s slot mbCoefficientChunk →
      let n := c.f 1 35 31
      let stage := fun (x : Option CoefSet) => d.onSurvey fun y => { y with coefStaging := y.coefStaging.set n x }
      match chunkSet (d.survey.coefStaging.getD n none) c with
      | none => Refused (.coefficientChunk slot) s slot (stage none) (failAt eParam (chunkFault (d.survey.coefStaging.getD n none) c))
      | some x =>
        if x.taps.length < x.total then DefersTo (.coefficientChunk slot) s slot (stage (some x)) t []
        else Checked (.coefficientChunk slot) s slot
          (firstFail [(d.guardFails n x, failAt eParam 1), (d.setBudget n x c.opcode, failPlain eBudget)])
          ((stage none).defer t c.opcode (.coefSet n x)) eDeferred [w36 t]) ∧
    (Ready s slot mbDefineMask →
      let n := c.f 1 35 30
      let stage := fun (x : Option (Nat × List Segment)) => d.onSurvey fun y => { y with maskStaging := y.maskStaging.set n x }
      match chunkMask (d.survey.maskStaging.getD n none) c with
      | none => Refused (.defineMask slot) s slot (stage none) (failAt eParam 1)
      | some x =>
        if x.2.length < x.1 then DefersTo (.defineMask slot) s slot (stage (some x)) t []
        else DefersTo (.defineMask slot) s slot ((stage none).defer t c.opcode (.mask n x.2)) t []) ∧
    (∀ i, s.dev.next mbCoefficientChunk.form slot = true → mbCoefficientChunk.form.badHeader c = false →
      leastFault (mbCoefficientChunk.faultsOf c) = some i →
      let n := c.f 1 35 31
      Refused (.coefficientChunk slot) s slot
        (if chunkSet (d.survey.coefStaging.getD n none) c = none then
          d.onSurvey fun y => { y with coefStaging := y.coefStaging.set n none }
        else d) (failAt eParam i)) ∧
    (∀ i, s.dev.next mbDefineMask.form slot = true → mbDefineMask.form.badHeader c = false →
      leastFault (mbDefineMask.faultsOf c) = some i →
      let n := c.f 1 35 30
      Refused (.defineMask slot) s slot
        (if chunkMask (d.survey.maskStaging.getD n none) c = none then
          d.onSurvey fun y => { y with maskStaging := y.maskStaging.set n none }
        else d) (failAt eParam i))

/-- Accepted, each of these stores its settings as pending for the next tick, finishes with ACCEPTED_DEFERRED naming
that tick, and changes nothing else; ALIGN_ARM also makes a measured link delay stale. ATLAS_APPEND_POLICY fails
with E_STATE where the journal is not open. SET_GRATICULE fails with E_PARAM for k above 20 with REF_SRC = SYNC and
with E_BUDGET where the load at k exceeds 900; else the new k is pending, and the tick named is the next one, or the
one at which the new k may apply. Where this says more than the rules, it is the model's choice: log 53, 54 and 57.
(R101, R102, R139, R176, R185, R274, R308, R325, R326, R327, R330, R333) -/
def Obligations.PoliciesWaitForTheNextTick : Prop :=
  ∀ (s : State) (slot : SlotId),
    let c := s.dev.cmdOf slot
    let d := s.dev
    let t := d.nextTick
    (Ready s slot mbSetCalPolicy → Taken (.setCalPolicy slot) s slot (.calPolicy (c.f 1 5 0) (c.f 1 12 6)) []) ∧
    (Ready s slot mbFreezeCal → DefersTo (.freezeCal slot) s slot
      (d.onCal fun k => { k with pendingFreeze := some (t, c.b 1 0) }) t []) ∧
    (Ready s slot mbSetResultRing → DefersTo (.setResultRing slot) s slot
      (d.onRing fun r => { r with pendingCfg := some (t, c.ringCfg) }) t []) ∧
    (Ready s slot mbAlignArm → DefersTo (.alignArm slot) s slot
      (d.onAlign fun a => { a with pendingArm := some (t, c.b 1 0, c.f 1 6 1, c.b 1 7), measured := false }) t []) ∧
    (Ready s slot mbAtlasAppendPolicy →
      if d.atlas.isOpen = true then DefersTo (.atlasAppendPolicy slot) s slot
        (d.onAtlas fun a => { a with pendingPolicy := some (t, c.atlasPolicy) }) t []
      else Refused (.atlasAppendPolicy slot) s slot d (failPlain eState)) ∧
    (Ready s slot mbSetGraticule →
      let k := c.f 1 4 0
      let tick := if k = d.tb.k then t else d.tickOfK k
      if 20 < k ∧ (d.tb.cfg.refSrc = 2 ∨ d.committedSrc = 2) then Refused (.setGraticule slot) s slot d (failAt eParam 1)
      else if 900 < maxN (d.loads d.committedItems [k] d.engineDepth) then Refused (.setGraticule slot) s slot d (failPlain eBudget)
      else DefersTo (.setGraticule slot) s slot
        (d.onTb fun u => { u with pendingK := some { tick := tick, k := k, counts := true } }) tick [])

/-- Accepted, LOAD_SETTINGS of a bank that is not valid or not readable (or with no such bank) fails with E_NVM naming
word 1. Otherwise the bank's settings wait for the tick at which the bank's k may apply, the next one if k does not
change, k itself is pending without a generation of its own, and the response names the tick. Where this says more
than the rules, it is the model's choice: log 108. (R176, R191, R331, R370) -/
def Obligations.LoadSettingsNamesItsTick : Prop :=
  ∀ (s : State) (slot : SlotId), Ready s slot mbLoadSettings →
    let c := s.dev.cmdOf slot
    let d := s.dev
    match (s.watch.gaz.readable s.dev.gs.fwVersion).named (c.f 1 1 0) with
    | none => Refused (.loadSettings slot) s slot d (failAt eNvm 1)
    | some (bankB, bank) =>
      let k := bank.settings.k
      let tick := if k = d.tb.k then d.nextTick else d.tickOfK k
      DefersTo (.loadSettings slot) s slot
        ((d.onTb fun u => { u with pendingK := some { tick := tick, k := k, counts := false } }).defer tick 0x802
          (.loadSettings bankB bank.settings [])) tick []

/-- Accepted, SET_CLKOUT stages the settings of one output. COMMIT_CLOCKS commits the staged settings of the outputs of
its mask at the next tick, or at AT_FRAME, which must lie 2 to 2^32 frames ahead (else E_PARAM, word 2).
STEP_BEARING adds a move of each output at the next tick, and to its staged settings in the order of acceptance, or
fails with E_PARAM where one would leave the range of FINE_DLY. SET_SPREAD gives one PLL its setting, and its depth
ramps from the old setting to the new one from the next boundary of the modulation on; it fails with E_PARAM for the
Chart PLL with no sink attached that supports down-spread, and with E_BUDGET where the Engine's load would exceed
900, and then changes nothing. Where this says more than the rules, it is the model's choice: log 9, 51, 52 and 135.
(R129, R130, R131, R132, R133, R134, R177, R324) -/
def Obligations.ClockOutputCommands : Prop :=
  ∀ (s : State) (slot : SlotId),
    let c := s.dev.cmdOf slot
    let d := s.dev
    let t := d.nextTick
    (Ready s slot mbSetClkout → Completes (.setClkout slot) s slot
      (d.onTb fun u => { u with clkStaged := u.clkStaged.set (c.f 1 1 0) c.clkout }) false eOk []) ∧
    (Ready s slot mbCommitClocks →
      let n := d.ahead (nat40 (c.w 2) (c.w 3))
      if c.count = 1 then DefersTo (.commitClocks slot) s slot (d.commitAt (c.f 1 3 0) t) t []
      else if n < 2 ∨ 2 ^ 32 < n then Refused (.commitClocks slot) s slot d (failAt eParam 2)
      else DefersTo (.commitClocks slot) s slot (d.commitAt (c.f 1 3 0) (d.tb.frame + n)) (d.tb.frame + n) []) ∧
    (Ready s slot mbStepBearing →
      let outs := maskList 4 (c.f 1 3 0)
      let by_ := c.s 1 35 20
      if outs.any (fun o => d.badBearing o by_) = true then Refused (.stepBearing slot) s slot d (failAt eParam 1)
      else DefersTo (.stepBearing slot) s slot
        (outs.foldl (fun e o => e.defer t 0x205 (.stageBearing o by_))
          (d.onTb fun u => { u with bearings := u.bearings ++ outs.map fun o => (t, o, by_) })) t []) ∧
    (Ready s slot mbSetSpread →
      let pll := c.f 1 1 0
      let x : Spread := { mode := c.f 1 3 2, depth := c.f 1 10 4, rate := c.f 1 19 11 }
      let e := d.setSpread pll x
      if pll = 2 ∧ c.f 1 3 2 ≠ 0 ∧ (d.cap.chart.hpd && d.cap.chart.sink.downSpread) = false then Refused (.setSpread slot) s slot d (failAt eParam 1)
      else if pll = 0 ∧ 900 < e.load e.committedItems t then Refused (.setSpread slot) s slot d (failPlain eBudget)
      else Completes (.setSpread slot) s slot e false eOk []) ∧
    (∀ (p : Pll) (now : Nat) (x : Spread), (p.setSpread now x).spread = x ∧
      (p.rampEnd ≤ now → (p.setSpread now x).spreadBefore = p.spread ∧ now ≤ (p.setSpread now x).rampFrom))

/-- Accepted, START and ARM are refused where a check of R313 fails, and change nothing then. ARM enters ARMED at
acceptance, and answers the load; START fixes the run's schedule and waits for its tick, which the response names
with the load. HOLD and RESUME wait for their tick. STOP from ARMED returns to READY at acceptance, and otherwise
waits for its tick. A transition accepted while another waits takes the tick after it, ARM and a STOP from ARMED
too. Where this says more than the rules, it is the model's choice: log 60, 61 and 62. (R16, R151, R166, R171, R175,
R181, R185, R223, R312, R313, R314, R325) -/
def Obligations.RunTransitions : Prop :=
  ∀ (s : State) (slot : SlotId),
    let d := s.dev
    let t := d.transitionTick
    let load := w36 (d.load d.committedItems t)
    (Ready s slot mbArm → Checked (.arm slot) s slot (d.startFail t)
      (if d.gs.transitions = [] then d.onGs fun g => { g with op := .armed } else d.addTransition .arm) eOk [load]) ∧
    (Ready s slot mbStart → Checked (.start slot) s slot (d.startFail t) (d.schedule.addTransition .start) eDeferred [w36 t, load]) ∧
    (Ready s slot mbHold → DefersTo (.hold slot) s slot (d.addTransition .hold) t []) ∧
    (Ready s slot mbResume → DefersTo (.resume slot) s slot (d.addTransition .resume) t []) ∧
    (Ready s slot mbStop →
      if d.judged = .armed then
        Completes (.stop slot) s slot
          (if d.gs.transitions = [] then d.onGs fun g => { g with op := .ready } else d.addTransition .disarm) false eOk []
      else DefersTo (.stop slot) s slot (d.addTransition .stop) t [])

/-- Accepted, DEFINE_TRAVERSE is refused for a number in use, for a load above 128,000 M words/s, with CAPTURE down and
where no run of free pages is long enough; else the traverse exists at the lowest such run and the next tick is
named. The others fail with E_PARAM naming word 1 where the traverse does not exist. RESIZE_TRAVERSE is decided at
once where the frame's commit is past, and else RUNS until it is: it is refused in PENDING, with unread words and no
FLUSH, and where the pages above are taken; else RC becomes WC and the new size waits for the tick. DELETE waits for
the tick. FREEZE_TRAVERSE in modes 0, 2 and 3 waits for the next tick, in mode 1 for the second tick after its
frame, and in mode 4 answers the traverse's status. Where this says more than the rules, it is the model's choice:
log 7 and 76. (R225, R226, R227, R233, R236, R238, R239, R240, R319, R328) -/
def Obligations.TraverseCommandsAct : Prop :=
  ∀ (s : State) (slot : SlotId),
    let c := s.dev.cmdOf slot
    let d := s.dev
    let n := c.f 1 35 28
    let wait := fun (i : Instr) (tick : Nat) (a : TvAction) => DefersTo i s slot (d.updTraverse n fun x => x.wait tick a) tick []
    (Ready s slot mbDefineTraverse →
      match (firstFail [((d.traverse n).isSome, failAt eResource 1), (128000 < d.captureLoad + c.f 3 13 0 + 2, failPlain eBudget)]
          <|> d.partsFault [partCapture]) with
      | some f => Refused (.defineTraverse slot) s slot d f
      | none =>
        match firstFit (d.runs none) (c.f 2 20 0) with
        | none => Refused (.defineTraverse slot) s slot d (failPlain eResource)
        | some page => DefersTo (.defineTraverse slot) s slot
            (d.onCap fun x => { x with traverses := insertTraverse x.traverses (c.traverse page d.nextTick) }) d.nextTick [w36 (page * pageSize)]) ∧
    (Ready s slot mbResizeTraverse →
      match d.traverse n with
      | none => Refused (.resizeTraverse slot) s slot d (failAt eParam 1)
      | some t =>
        let pages := c.f 1 20 0
        match d.partsFault [partCapture] with
        | some f => Refused (.resizeTraverse slot) s slot d f
        | none =>
          if d.committedBefore t d.tb.frame = false then
            Continues (.resizeTraverse slot) s slot
              (d.updTraverse n fun x => { x with resizes := x.resizes ++ [⟨slot.val, d.tb.frame, pages, c.b 0 20⟩] })
          else if (match t.freeze with | .pending .. => true | _ => false) = true then
            Refused (.resizeTraverse slot) s slot d (failPlain eBusy)
          else if t.rc < t.wc ∧ c.b 0 20 = false then Refused (.resizeTraverse slot) s slot d (failPlain eState)
          else if t.pages < pages ∧ freeAt (d.runs (some n)) pages (t.base / pageSize) = false then
            Refused (.resizeTraverse slot) s slot d (failPlain eResource)
          else DefersTo (.resizeTraverse slot) s slot
            (d.updTraverse n fun x => { x with rc := x.wc, flushed := clampU 72 (x.flushed + (t.wc - t.rc)),
                                               waits := x.waits ++ [(d.nextTick, .resize pages x.wc)] })
            d.nextTick (w36 (t.wc - t.rc) :: words64 t.wc)) ∧
    (Ready s slot mbDeleteTraverse →
      if d.traverse n = none then Refused (.deleteTraverse slot) s slot d (failAt eParam 1)
      else wait (.deleteTraverse slot) d.nextTick .delete) ∧
    (Ready s slot mbFreezeTraverse →
      match d.traverse n with
      | none => Refused (.freezeTraverse slot) s slot d (failAt eParam 1)
      | some t =>
        match c.f 1 27 24 with
        | 0 => wait (.freezeTraverse slot) d.nextTick (.arm (c.f 1 23 21) (c.f 2 20 0) (c.f 3 20 0))
        | 1 => wait (.freezeTraverse slot) (d.forcedFrame + 2) (.now d.forcedFrame (c.f 2 20 0) (c.f 3 20 0))
        | 2 => wait (.freezeTraverse slot) d.nextTick .release
        | 3 => wait (.freezeTraverse slot) d.nextTick .disarm
        | _ => Completes (.freezeTraverse slot) s slot d false eOk (d.tvStatus t))

/-- Accepted, FORCE_TRIGGER adds its routes to those forced in the frame in progress and names the second tick after the
frame that it fires in. RENDER_CONTOUR is refused where the map, the buffer or the room in it is wanting, and else
is due at the next tick, in place of a render into the same buffer that has not started. SET_LEGEND writes its
entries at once and no other. SET_CRC_RECT is refused outside the active area and else waits for the next frame
start. DEFINE_CHART_BUFFER fails with E_BUSY while the buffer is live or pending; with width 0 the buffer goes, else
it takes the lowest free pages, answering its base and stride. Where this says more than the rules, it is the
model's choice: log 9 and 83. (R222, R251, R253, R254, R255, R264, R329, R332) -/
def Obligations.TriggersRendersAndRectangles : Prop :=
  ∀ (s : State) (slot : SlotId),
    let c := s.dev.cmdOf slot
    let d := s.dev
    (Ready s slot mbForceTrigger → DefersTo (.forceTrigger slot) s slot
      (d.markFrame fun i => { i with forced := i.forced ++ maskList 8 (c.f 1 7 0) }) (d.forcedFrame + 2) []) ∧
    (Ready s slot mbRenderContour →
      let r := c.render d.nextTick
      let altBad := match r.alt with | some a => !r.fitsIn (d.buffer a) | none => false
      Checked (.renderContour slot) s slot
        (firstFail [((d.mapBase r.map).isNone || (d.buffer r.buffer).isNone, failAt eParam 1),
          (!r.fitsIn (d.buffer r.buffer) || altBad, failAt eParam 1)] <|> d.partsFault [partCapture, partChart])
        (d.onChart fun x => { x with renders := (x.renders.filter fun y => y.started || y.buffer != r.buffer) ++ [r] })
        eDeferred [w36 d.nextTick]) ∧
    (Ready s slot mbSetLegend →
      let first := c.f 1 7 0
      Checked (.setLegend slot) s slot (d.partsFault [partChart])
        (d.onChart fun x =>
          { x with legend := x.legend.mapNum fun i v =>
              if first ≤ i ∧ i < first + (c.count - 1) then BitVec.ofNat 24 (c.f (2 + (i - first)) 23 0) else v }) eOk []) ∧
    (Ready s slot mbSetCrcRect →
      let r : CrcRect := ⟨c.f 1 31 19, c.f 1 18 7, c.f 2 31 19, c.f 2 18 7⟩
      Checked (.setCrcRect slot) s slot
        (firstFail [(r.w != 0 && !r.inside d.cap.chart.mode, failAt eParam 1)] <|> d.partsFault [partChart])
        (d.onChart fun x =>
          { x with pendingRects := x.pendingRects ++ [(c.f 1 35 33, if r.w = 0 then none else some r)] }) eOk []) ∧
    (Ready s slot mbDefineChartBuffer →
      let n := c.f 1 35 32
      let busy := match d.buffer n with | some b => d.cap.chart.inUse b | none => false
      let without := d.onChart fun x => x.dropBuffer n
      match (firstFail [(busy, failPlain eBusy)] <|> d.partsFault [partCapture, partChart]) with
      | some f => Refused (.defineChartBuffer slot) s slot d f
      | none =>
        if c.f 1 31 19 = 0 then Completes (.defineChartBuffer slot) s slot without false eOk [w36 0, w36 0]
        else match firstFit (without.runs none) (c.buffer 0).pages with
          | none => Refused (.defineChartBuffer slot) s slot d (failPlain eResource)
          | some page =>
            let b := c.buffer (page * pageSize)
            Completes (.defineChartBuffer slot) s slot
              (d.onChart fun x => { x.dropBuffer n with buffers := (x.dropBuffer n).buffers ++ [b] }) false eOk
              [w36 b.base, w36 b.stride])

/-- Accepted, SET_CHART_MODE fails with E_BUSY during a change, with E_PARAM where the staged address does not fit the
mode, and with the partition's error with CHART down, changing nothing. To OFF from OFF it answers at once; to OFF
from a mode it runs until the frame ends. To a mode, the first link configuration that fits is taken: with none the
port goes to OFF and the command fails with E_LINK; from OFF the change starts at once; else it starts at the end of
the frame. Where this says more than the rules, it is the model's choice: log 86. (R257, R258, R259, R263, R329) -/
def Obligations.ChartModeChangesRun : Prop :=
  ∀ (s : State) (slot : SlotId), Ready s slot mbSetChartMode →
    let c := s.dev.cmdOf slot
    let d := s.dev
    let mode := c.f 1 3 0
    let x := d.cap.chart
    let e := d.onChart fun y => { y with maxLanes := c.f 1 6 4, maxRate := c.f 1 8 7 }
    match (firstFail [(x.change.isSome, failPlain eBusy), (mode != 0 && !x.addrOk mode x.staged, failAt eParam 1)] <|>
        d.partsFault [partChart]) with
    | some f => Refused (.setChartMode slot) s slot d f
    | none =>
      if mode = 0 then
        if x.mode = 0 then Completes (.setChartMode slot) s slot e false eOk [x.link]
        else Continues (.setChartMode slot) s slot (e.onChart fun y => { y with change := some ⟨some slot.val, 0, 0, 0, 0, false, false⟩ })
      else match (linkConfigs mode (c.f 1 8 7) (c.f 1 6 4) (if x.hpd then x.sink else Sink.none)).head? with
        | none => Refused (.setChartMode slot) s slot e.chartOff (failPlain eLink)
        | some k =>
          let m : ModeChange := ⟨some slot.val, mode, k.1, k.2, 0, false, false⟩
          Continues (.setChartMode slot) s slot
            (if x.mode = 0 then e.startChange m else e.onChart fun y => { y with change := some m })

/-- Accepted, CHECK_INPUT, AUTO_LEVEL, CALIBRATE and DESKEW fail where a bank or the stamp path they need is not up,
CALIBRATE also with E_NOT_WARM before TB_WARM unless it is told to go on; else the work is recorded, it begins at
the next tick (CALIBRATE at the first tick after every transition that waits), and the slot is RUNNING. The
constants of DESKEW wait for the tick after its last frame, in the order of acceptance. ALIGN_MEASURE begins to
count probes at once. ALIGN_APPLY at the head answers a move of 0, fails with E_STATE without a measured link delay,
and else waits for an aligned marker. Where this says more than the rules, it is the model's choice: log 57. (R47,
R106, R108, R109, R140, R141, R173, R323, R327, R333, R378) -/
def Obligations.RunsAreStarted : Prop :=
  ∀ (s : State) (slot : SlotId),
    let c := s.dev.cmdOf slot
    let d := s.dev
    let chs := channelMask (c.w 1) (c.w 2) (c.w 3)
    let a := d.tb.align
    (Ready s slot mbCheckInput → Started (.checkInput slot) s slot (d.partsFault (banksOf chs ++ [partStamp]))
      (d.onFw fun w => { w with check := some ⟨slot.val, chs, d.nextTick, chs.map fun _ => ([], []), false⟩ })) ∧
    (Ready s slot mbAutoLevel → Started (.autoLevel slot) s slot (d.partsFault (banksOf chs))
      (let r : LevelRun :=
        { slot := slot.val, pct := c.f 4 35 29, hysAuto := c.b 4 28, dwell := c.f 4 27 19, step := 0, stepFrom := d.nextTick,
          chans := chs.map fun n => { ch := n, skipped := false, code := 0, top := 0, bot := 16383 }, cancelled := false }
       d.onFw fun w => { w with levels := some r })) ∧
    (Ready s slot mbCalibrate →
      if d.tb.warm = false ∧ c.b 1 13 = false then Refused (.calibrate slot) s slot d (failPlain eNotWarm)
      else Started (.calibrate slot) s slot (d.partsFault (maskList 12 (c.f 1 11 0) ++ [partStamp]))
        (let first := max d.nextTick ((d.gs.transitions.getLast?.map fun x => x.1 + 1).getD 0)
         let r : CalRun :=
          { slot := slot.val, banks := BitVec.ofNat 12 (c.f 1 11 0), deskewInt := c.b 1 12, first := first,
            limit := first + 2 * ceilDiv (2 ^ 20) (2 ^ d.tb.k - 16) - 1, fc := none, deskewAt := none, startUp := false,
            cancelled := false }
         d.onCal fun k => { k with run := some r })) ∧
    (Ready s slot mbDeskew →
      let r := c.deskewRun d.nextTick
      Started (.deskew slot) s slot (d.partsFault (banksOf r.named ++ [partStamp]))
        ((d.onCal fun k => { k with deskew := some r }).defer (r.first + r.frames) 0x403 .deskew)) ∧
    (Ready s slot mbAlignMeasure → Continues (.alignMeasure slot) s slot
      (let m : MeasureRun :=
        { slot := slot.val, from_ := d.tb.frame, wanted := 2 ^ c.f 1 4 0, sent := 0, returned := 0, sum := 0, launch := 0,
          probes := 0, echoed := 0 }
       d.onAlign fun x => { x with measureCancelled := false, measure := some m })) ∧
    (Ready s slot mbAlignApply →
      if a.armed = true ∧ a.role = false then DefersTo (.alignApply slot) s slot d d.nextTick (wordsT72 0)
      else if a.measured = false then Refused (.alignApply slot) s slot d (failPlain eState)
      else Continues (.alignApply slot) s slot (d.onAlign fun x => { x with apply := some (slot.val, d.tb.frame) }))

/-- Accepted, ATLAS_OPEN fails with E_RESOURCE where no run of free pages holds the read window; an open journal takes
the new window and answers at once, or fails with CAPTURE down; else recovery begins with the checkpoint's copies,
where the flash parts serve and are those of a format. ATLAS_READ fails with E_STATE on a closed journal, with
E_PARAM on a COUNT above the window, and for a KEY that names no programmed sheet, the last two with the oldest and
the newest SEQ; with nothing to copy it answers at once, else it runs unless a channel that it needs is down.
ATLAS_FENCE fails on a closed journal, with E_HOLDUP while power is failing and with E_MEDIA_FULL after a drop;
where all is programmed it writes a checkpoint and answers at once, else it pads the last sheet and runs.
ATLAS_SCRUB answers the oldest age or starts a pass over the blocks that hold data (none: it answers 0; a channel of
one down: its error). ATLAS_FORMAT of suitable parts closes and empties the journal and runs until every block but
the bad ones is erased. Where this says more than the rules, it is the model's choice: log 89, 90, 91 and 151.
(R279, R280, R282, R285, R287, R288, R289, R319, R330) -/
def Obligations.AtlasCommandsAct : Prop :=
  ∀ (s : State) (slot : SlotId),
    let c := s.dev.cmdOf slot
    let d := s.dev
    let a := d.atlas
    let bad := fun (ts : List Target) => (firstBadTarget ts).map fun t => failObj eMedia 0xFFF 6 t
    (∀ ts, Ready s slot (mbAtlasOpen ts) →
      let n := c.f 1 16 0
      match firstFit ((d.onCap fun x => { x with rbuf := none }).runs none) n with
      | none => Refused (.atlasOpen slot ts) s slot d (failPlain eResource)
      | some page =>
        let e := d.onCap fun x => { x with rbuf := some (page, n) }
        if a.isOpen = true then
          Checked (.atlasOpen slot ts) s slot (d.partsFault [partCapture]) e.opened eOk e.openWords
        else match (d.partsFault (partCapture :: (populated ts).map partAtlas) <|> bad ts) with
          | some f => Refused (.atlasOpen slot ts) s slot d f
          | none =>
            if a.formatted = false ∨ ts = [] ∨ a.sameFlash ts = false then Refused (.atlasOpen slot ts) s slot d (failPlain eMedia)
            else Continues (.atlasOpen slot ts) s slot (e.onAtlas fun x => x.beginOpen (some slot.val) ts)) ∧
    (Ready s slot mbAtlasRead →
      match (firstFail [(!a.isOpen, failPlain eState), (decide (d.cap.window < c.f 5 27 0), { failAt eParam 5 with resp := a.range })] <|>
          d.partsFault [partCapture]) with
      | some f => Refused (.atlasRead slot) s slot d f
      | none =>
        match a.locate c with
        | .inr code => Refused (.atlasRead slot) s slot d { code := code, index := 2, detail := 0, resp := a.range }
        | .inl sh =>
          let n := min (c.f 5 27 0) (sh.size - (c.w 4).toNat)
          let r : AtlasRead := ⟨slot.val, sh.seq, (c.w 4).toNat, n, 0, none⟩
          if n = 0 then Completes (.atlasRead slot) s slot d false eOk (r.words sh ++ [0])
          else Started (.atlasRead slot) s slot (d.partsFault ((a.readChannels r).map partAtlas))
            (d.onAtlas fun x => { x with reads := x.reads ++ [r] })) ∧
    (Ready s slot mbAtlasFence →
      if a.isOpen = false then Refused (.atlasFence slot) s slot d (failPlain eState)
      else if a.powerHeld = true then Refused (.atlasFence slot) s slot d (failPlain eHoldup)
      else if a.dropSinceFence = true then Refused (.atlasFence slot) s slot (d.onAtlas fun x => { x with dropSinceFence := false })
        { code := eMediaFull, index := 0xFFF, detail := 0, resp := words72 a.newest }
      else if a.fences = [] ∧ a.fenced a.newest = true then Completes (.atlasFence slot) s slot
        (d.onAtlas fun x => { x.mark with lastFenced := x.newest }) false eOk (words72 a.newest) ∧ a.mark.checkpoint =
          (if populated a.targets = [] then a.checkpoint else a.programmed)
      else RunsWhere (.atlasFence slot) s slot
        { s with dev := (d.onAtlas fun x => { x.padLast with fences := x.fences ++ [(slot.val, x.newest)] }).runFlash }
        (a.scrubs = [])) ∧
    (Ready s slot mbAtlasScrub →
      if a.isOpen = false then Refused (.atlasScrub slot) s slot d (failPlain eState)
      else if c.b 1 0 = true then Completes (.atlasScrub slot) s slot d false eOk [w36 a.oldestHours]
      else
        let l := (a.blocks.zipIdx.filter fun y => y.1.holds).map fun y => y.2
        if l = [] then Completes (.atlasScrub slot) s slot d false eOk [0]
        else Started (.atlasScrub slot) s slot
          (d.partsFault (((List.range 8).filter fun ch => l.any fun n => a.channelOf n == ch).map partAtlas))
          (d.onAtlas fun x => { x with scrubs := x.scrubs ++ [⟨some slot.val, false, l, l.length⟩] })) ∧
    (∀ ts, Ready s slot (mbAtlasFormat ts) →
      match (d.partsFault ((populated ts).map partAtlas) <|> bad ts) with
      | some f => Refused (.atlasFormat slot ts) s slot d f
      | none =>
        if ts = [] then Refused (.atlasFormat slot ts) s slot d (failPlain eMedia)
        else RunsWhere (.atlasFormat slot ts) s slot { s with dev := (d.onAtlas fun x =>
          let blocks := freshBlocks ts x.blocks
          { x with st := .closed, targets := ts, ddr := populated ts, formatted := false, sheets := [], laid := 0,
                   programmed := 0, copies := [], blocks := blocks, nextPage := 0, ahead := [], rewrites := [], inflight := [],
                   moves := [], lost := [], badCopies := [], scrubs := [], collecting := [], gap := none, fences := [],
                   reads := [], initialised := true, opening := none
                   formatting := some ⟨slot.val, (blocks.zipIdx.filter fun y => !y.1.factory).map fun y => y.2⟩ }) }
          (a.fences = [] ∧ a.reads = []))

/-- Accepted, GET_HOLDUP joins the hold-up measurement. STORE_SETTINGS fails with E_HOLDUP while power fails and with
E_BUSY while the Gazetteer writes; else the measurement runs with the settings that it is to store: those in force
at the last tick, with the owners asked for. UPDATE_FIRMWARE with SLOT = 0 takes the inactive slot, or without an
active one the slot activated longer ago; it fails for the active slot, with HOST down, without a link and while the
Gazetteer writes; else the state is UPDATING and the image is awaited. ACTIVATE_FIRMWARE fails with E_AUTH for a
slot without a valid image and with E_BUSY while the Gazetteer writes; else the slot has the highest ACT_SEQ,
COMPASS is in reset, which ends every other command, BOOT begins with that slot, and the command is DONE.
SET_MONITOR sets the monitor at once, or after the measurement that borrows it. Where this says more than the rules,
it is the model's choice: log 9, 41, 101, 104, 110, 150 and 174. (R54, R56, R315, R334, R359, R370, R371, R372,
R373, R374, R375) -/
def Obligations.GazetteerCommandsAct : Prop :=
  ∀ (s : State) (slot : SlotId),
    let c := s.dev.cmdOf slot
    let g := s.watch.gaz
    (Ready s slot mbGetHoldup → RunsIn (.getHoldup slot) s slot
      { s with watch := s.watch.measure fun h => { h with getSlots := h.getSlots ++ [slot.val] } }) ∧
    (Ready s slot mbStoreSettings →
      if s.watch.pwrFailN = false then Refused (.storeSettings slot) s slot s.dev (failPlain eHoldup)
      else if g.job.isSome = true then Refused (.storeSettings slot) s slot s.dev (failPlain eBusy)
      else
        let owner := fun n => if fixedOwner n then defaultHostOwned n
          else if c.b 0 22 then c.owner n else (s.relay.source n).cfg.hostOwned
        let x := s.boot.atTick.getD s.inForce
        let settings : Settings :=
          { x with srcCfg := x.srcCfg.mapNum fun n y => { y with hostOwned := owner n }
                   clkAuto := c.b 0 20, autoOpen := c.b 0 21, rbufPages := s.dev.atlas.rbufPages }
        RunsIn (.storeSettings slot) s slot
          { s with watch := s.watch.measure fun h => { h with store := some (slot.val, s.dev.gs.fwVersion, settings) } }) ∧
    (Ready s slot mbUpdateFirmware →
      let active := s.boot.activeSlot
      let slotB := if c.f 4 1 0 = 1 then false else if c.f 4 1 0 = 2 then true else if active = 1 then true
        else if active = 2 then false else !decide (g.actSeq false < g.actSeq true)
      match (firstFail [(slotCode slotB == active, failAt eParam 4)] <|> s.dev.partsFault [partHost]
          <|> firstFail [(!s.dev.canRequest, failPlain eLink), (g.job.isSome, failPlain eBusy)]) with
      | some f => Refused (.updateFirmware slot) s slot s.dev f
      | none => RunsIn (.updateFirmware slot) s slot
          { s with dev := s.dev.onGs fun x => { x with before := x.op, op := .updating }
                   boot := { s.boot with update := some (slot.val, slotB, c.f 3 18 0), cancelled := false } }) ∧
    (Ready s slot mbActivateFirmware →
      let slotB := c.f 1 1 0 == 2
      if (g.validImage slotB).isNone = true then Refused (.activateFirmware slot) s slot s.dev (failAt eAuth 1)
      else if g.job.isSome = true then Refused (.activateFirmware slot) s slot s.dev (failPlain eBusy)
      else
        let x := (g.fwSlot slotB).activated (max (g.actSeq false) (g.actSeq true) + 1)
        let d := ((s.dev.take slot).stopPart partCompass 0).onGs fun y => { y with before := s.dev.judged, op := .updating }
        EndsAll (.activateFirmware slot) s slot
        { s with dev := ((d.reply slot (.ok [])).failAll slot).onGs fun y => { y with op := .boot, fwVersion := 0 }
                 watch := { s.watch with gaz := g.setSlot slotB x, holdup := s.watch.holdup.map fun h => { h with store := none } }
                 boot := { s.boot with running := true, activeSlot := slotCode slotB, failedA := false, failedB := false,
                                       activation := some s.dev.judged, previous := s.boot.activeSlot, update := none } }
        false eOk []) ∧
    (Ready s slot mbSetMonitor → EndsIn (.setMonitor slot) s slot (s.setMonitor (c.f 1 35 32) c.monitorCfg) false eOk [])

/-- In every state in which RESET_PARTITION passes the general checks and names partition 56, MERIDIAN, with any action,
it ends FAILED with E_STATE and the device is unchanged: the frame number, its tick and the coarse counter stand.
(R12) -/
def Obligations.MeridianIsNeverResetAlone : Prop :=
  ∀ (s : State) (slot : SlotId), Ready s slot mbResetPartition → (s.dev.cmdOf slot).f 1 35 30 = partMeridian →
    Refused (.resetPartition slot) s slot s.dev (failPlain eState)

/-- Accepted and not refused by R381, RESET_PARTITION of a partition already as asked for answers its generation at
once; of COMPASS it answers the next generation and stops the partition with every other command, a store or an
update that runs being dropped; a reset of HOST ends an update with E_PART_RESET; else the partition stops and the
slot is RUNNING: with action 0 in reset, with action 1 powered down, the powered-down store forgetting its words,
with action 2 powered up in reset. PARTITION_READY ends the action on its partition, which leaves reset unless it
was powered down, and answers the generation; without an action, or while the hot hardware holds the partition, it
changes nothing. PARTITION_STUCK of a partition that is to come back fails its command and enters SAFE with code
0x12; otherwise it changes nothing. Where this says more than the rules, it is the model's choice: log 111 and 113.
(R12, R303, R322, R374, R377, R378, R379, R380, R381, R389) -/
def Obligations.PartitionActionsRun : Prop :=
  ∀ (s : State) (slot : SlotId),
    let c := s.dev.cmdOf slot
    let d := s.dev.take slot
    let p := c.f 1 35 30
    let action := c.f 1 1 0
    let gen := fun (e : Dev) => [w36 (e.part p).gen.toNat]
    let run := fun (e : Dev) (w : Option Nat) => { s with dev := e.onFw fun y => { y with partRuns := y.partRuns ++ [⟨p, w, action⟩] } }
    (Ready s slot mbResetPartition →
      match s.dev.partActionFault p action with
      | some f => Refused (.resetPartition slot) s slot s.dev f
      | none =>
        if (action = 1 ∧ (d.part p).down = true) ∨ (action = 2 ∧ (d.part p).down = false) then
          Completes (.resetPartition slot) s slot s.dev false eOk (gen s.dev)
        else if p = partCompass then EndsAll (.resetPartition slot) s slot
          ({ s with dev := ((run (d.stopPart p 0) none).dev.reply slot (.ok (gen d))).failAll slot }.orphanWork false false) false eOk
          [w36 ((d.part p).gen + 1).toNat]
        else if action = 0 then RunsWhere (.resetPartition slot) s slot (s.afterHost (run (d.stopPart p 0) (some slot.val)))
          (d.slotsUsing p = [] ∧ d.atlas.scrubs = [] ∧ (p = partHost → s.boot.update = none))
        else if action = 1 then RunsWhere (.resetPartition slot) s slot (run ((d.stopPart p 1).forget p) (some slot.val))
          (d.slotsUsing p = [] ∧ d.atlas.scrubs = [])
        else RunsIn (.resetPartition slot) s slot
          (run ((d.updPart p fun x => { x with down := false, inReset := true }).partEvent p 2) (some slot.val))) ∧
    (∀ q,
      match s.dev.fw.partRuns.find? fun r => r.part == q && (r.action == 1 || !s.dev.heldByHw q) with
      | none => Becomes (.partitionReady q) s s
      | some r =>
        let d1 := s.dev.onFw fun w => { w with partRuns := w.partRuns.filter fun x => x.part != q }
        let d2 := if r.action = 1 then d1 else (d1.updPart q fun x => { x with inReset := false }).returnPart q
        Leads (.partitionReady q) s (match r.slot with
          | some i => d2.reply i (.ok [w36 (d2.part q).gen.toNat])
          | none => d2)) ∧
    (∀ q,
      match s.dev.fw.partRuns.find? fun r => r.part == q && r.action != 1 with
      | none => Becomes (.partitionStuck q) s s
      | some r =>
        let d1 := s.dev.onFw fun w => { w with partRuns := w.partRuns.filter fun x => x.part != q }
        Becomes (.partitionStuck q) s ({ s with dev := match r.slot with
          | some i => d1.reply i (.fail (failObj ePartReset 0xFFF 11 q))
          | none => d1 }.enterFault 0x12))

/-- Accepted, SELF_TEST is RUNNING, its tests recorded with none run behind those of other slots, and nothing else
changes. A moment of firmware runs the next test of every record, in order. The next test of a record has the result
SKIPPED where it was not asked for (test 2 also in SAFE and FAULT), FAIL where the hardware fails it, else PASS. A
test before the last adds its result to the record and a fifth to PROGRESS; if test 2 ran, every comparator is
UNSETTLED from then on. The last test ends the command OK with a result for each of the five and the channels that
failed test 2, and a cancelled command ends E_CANCELLED with what has run. Where this says more than the rules, it
is the model's choice: log 149. (R45, R334) -/
def Obligations.SelfTestReportsTheHardware : Prop :=
  (∀ (s : State) (slot : SlotId) (fails bad : List Nat), Ready s slot (mbSelfTest fails bad) →
    let r : TestRun :=
      { slot := slot.val, tests := (s.dev.cmdOf slot).f 1 4 0, fails := if bad.isEmpty then fails else 2 :: fails
        bad := bad.filter (· < 96), results := [], cancelled := false }
    Continues (.selfTest slot fails bad) s slot (s.dev.onFw fun w => { w with selfTests := w.selfTests ++ [r] })) ∧
  (∀ d : Dev, d.testTick = d.fw.selfTests.foldl Dev.nextTest (d.onFw fun w => { w with selfTests := [] })) ∧
  (∀ (d : Dev) (r : TestRun),
    let n := r.results.length
    let asked := r.tests.testBit n && !(n == 2 && (d.gs.op == .safe || d.gs.op == .fault))
    let x := { r with results := r.results ++ [if asked = false then 2 else if n ∈ r.fails then 1 else 0] }
    (r.cancelled = true → d.nextTest r =
      d.reply r.slot (.fail { code := eCancelled, index := 0xFFF, detail := 0, resp := r.words })) ∧
    (r.cancelled = false → n = 4 → d.nextTest r = d.reply r.slot (.ok x.words)) ∧
    (r.cancelled = false → n < 4 → (d.nextTest r).fw.selfTests = d.fw.selfTests ++ [x] ∧
      (r.slot < d.host.slots.length → ((d.nextTest r).slot r.slot).progress = max (d.slot r.slot).progress (200 * (n + 1))) ∧
      (n = 2 → asked = true → ∀ y ∈ (d.nextTest r).chans, y.a.settled = false ∧ y.b.settled = false) ∧
      (n ≠ 2 ∨ asked = false → (d.nextTest r).chans = d.chans))) ∧
  (∀ r : TestRun, r.words =
    word [(3, 0, r.results.getD 0 2), (7, 4, r.results.getD 1 2), (11, 8, r.results.getD 2 2), (15, 12, r.results.getD 3 2),
      (19, 16, r.results.getD 4 2)] :: channelMaskWords (if r.results.getD 2 2 ≠ 2 then r.bad else []))

/-- With the registers open, a write of GS_FLAGS, ER_FAULT, ER_WAKE or WM_LATCH with the bits that hardware sets in the
same cycle clears the bits written 1, sets those that hardware sets, and adds the number of bits both cleared and
set to the register's collision counter, modulo 65,536. A fault of the write's cycle sets RELAY_FAULT and raises
source 371, one of H is counted, and the first since both bits were clear records its source and H's stack. Bits of
ER_WAKE that rise assert ALERT_N; WM_LATCH clears STICKY monitors only, not one that is borrowed, and a report that
lasts latches again. With the registers closed the write changes nothing. Where this says more than the rules, it is
the model's choice: log 41, 95 and 140. (R25, R55, R56, R348, R349) -/
def Obligations.BitsClearAndStayByR25 : Prop :=
  ∀ (s : State) (value hw : Lane),
    let both := fun (n : Nat) => ((List.range n).filter fun i => (value &&& hw).getLsbD i).length
    let r := s.relay
    let w := s.watch
    (s.open = false → Becomes (.gsFlagsWrite value hw) s s ∧ Becomes (.erFaultWrite value hw) s s ∧
      Becomes (.erWakeWrite value hw) s s ∧ Becomes (.wmLatchWrite value hw) s s) ∧
    (s.open = true →
      Leads (.gsFlagsWrite value hw) s (s.dev.onGs fun g =>
        { g with flags := (g.flags &&& ~~~(value &&& 0x1FFF)) ||| (hw &&& 0x1FFF)
                 flagsAgain := g.flagsAgain + BitVec.ofNat 16 (both 13) }) ∧
      (let fault := hw.getLsbD 0 || hw.getLsbD 1
       let first := fault && !r.order && !r.unclaimed
       Becomes (.erFaultWrite value hw) s { s with
         relay := { r with order := hw.getLsbD 0 || (r.order && !value.getLsbD 0)
                           unclaimed := hw.getLsbD 1 || (r.unclaimed && !value.getLsbD 1)
                           fwOrder := hw.getLsbD 2 || (r.fwOrder && !value.getLsbD 2)
                           faultAgain := r.faultAgain + BitVec.ofNat 16 (both 3)
                           faultCount := if fault then clampU 8 (r.faultCount + 1) else r.faultCount
                           badSource := if first then fld hw 12 4 else r.badSource
                           snapDepth := if first then r.stack.length else r.snapDepth
                           snap := if first then r.snapshot else r.snap }
         dev := if fault || hw.getLsbD 2 then (s.dev.setFlag flagRelayFault).pulse 371 else s.dev }) ∧
      (let v := value.setWidth 32
       let h := hw.setWidth 32
       Becomes (.erWakeWrite value hw) s { s with watch :=
        { w with seen := (w.seen &&& ~~~v) ||| h, alert := w.alert || (h &&& ~~~w.seen) != 0
                 wakeAgain := w.wakeAgain + BitVec.ofNat 16 (both 32) } }) ∧
      Becomes (.wmLatchWrite value hw) s { s with watch := w.latchWrite value hw } ∧
      (w.latchWrite value hw).latchAgain = w.latchAgain + BitVec.ofNat 16 (((List.range 32).filter fun i =>
        (value &&& hw).getLsbD i && !(w.monitor (i % 16)).period && !w.borrowed (i % 16)).length) ∧
      (∀ m x, m < 16 → w.monitors[m]? = some x → (w.latchWrite value hw).monitors[m]? = some (
        if x.period = true ∨ w.borrowed m = true then x
        else { x with belowSeen := (x.belowSeen && !value.getLsbD m) || hw.getLsbD m || x.state == 1
                      aboveSeen := (x.aboveSeen && !value.getLsbD (16 + m)) || hw.getLsbD (16 + m) || x.state == 2 })))

/-- With the registers open, a write to TV_RC of a defined traverse below or at RC leaves it, one at or above WC makes
it WC, and one between is taken; a write to GS_RING_HRC does the same between HRC and HWC. A position that stands at
the end, as after a FLUSH, is moved by no write. With the registers closed nothing changes. With no batch under way
RING_COPY_DONE changes nothing. Else the oldest batch leaves the queue: with the link and CAPTURE up and no
uncorrectable word its words go to the host ring from HWC on, HWC advances by their number and is written back last,
the header telling the batches dropped before it; otherwise the batch is dropped and counted, also towards the next
one's header. Source 316 follows where the notice is due. (R232, R233, R307, R308, R309, R310) -/
def Obligations.HostPositionsRiseOnly : Prop :=
  (∀ (s : State) (value : Lane),
    let v := value.toNat
    (s.open = false → (∀ n, Becomes (.tvRcWrite n value) s s) ∧ Becomes (.gsRingHrcWrite value) s s) ∧
    (s.open = true → (∀ n, Leads (.tvRcWrite n value) s
        (s.dev.updTraverse n fun t => { t with rc := if v ≤ t.rc then t.rc else if t.wc ≤ v then max t.rc t.wc else v })) ∧
      Leads (.gsRingHrcWrite value) s
        (s.dev.onRing fun r => { r with hrc := if v ≤ r.hrc then r.hrc else if r.hwc ≤ v then max r.hrc r.hwc else v })) ∧
    (∀ t : Traverse, t.rc = t.wc → t.writeRc value = t)) ∧
  (∀ s : State,
    let d := s.dev
    let r := d.ring
    match r.jobs with
    | [] => Becomes .ringCopyDone s s
    | j :: rest =>
      let head := (j.words.headD 0) ||| word [(30, 24, min 127 j.dropped)]
      let lanes := (head :: j.words.drop 1).zipIdx.map fun x =>
        (r.cfg.hbase.toNat + 8 * ((r.hwc + x.2) % 2 ^ r.cfg.hlenLog2), x.1.setWidth 64)
      let hwc := r.hwc + j.words.length
      let copied := { r with jobs := rest, hwc := hwc, hostWrites := lanes ++ [(r.cfg.wb.toNat, BitVec.ofNat 64 hwc)] }
      let less := ({ r with jobs := rest, damaged := false } : Ring).dropBatch j.readings
      let dropped : Ring := match rest with
        | k :: more => { less with jobs := { k with dropped := k.dropped + (j.dropped + 1) } :: more }
        | [] => { less with droppedRun := r.droppedRun + (j.dropped + 1) }
      let n := r.batchCount + 1
      let due := r.cfg.notifyEvery ≤ n
      let ring := if r.damaged = true ∨ d.canRequest = false ∨ d.partUp partCapture = false then dropped else copied
      Leads .ringCopyDone s ((d.onRing fun _ => { ring with batchCount := if due then 0 else n }).when
        (decide due && r.cfg.notify) fun e => e.pulse 316))

/-- With the registers open: a write of ER_SRC_CFG[n] configures source n if the host owns it, a reserved SENSE leaving
SENSE as it was and no core among its targets. A 1 written to a bit of ER_PEND raises a host-owned source; a 0
clears it, and counts a lost event where the bit was 0 at the last read, but not for a level source at its active
level, which pends again. A read of ER_PEND[k] returns the pending bits and keeps them. ER_LOST_CLEAR zeroes one
counter or all, of host-owned sources. With the registers closed nothing changes. Where this says more than the
rules, it is the model's choice: log 10. (R336, R337, R338, R339, R340) -/
def Obligations.RelaySourcesTakeHostWrites : Prop :=
  ∀ (s : State) (n k : Nat) (value : Lane),
    let r := s.relay
    (s.open = false → Becomes (.erSrcCfgWrite n value) s s ∧ Becomes (.erPendWrite k value) s s ∧ Becomes (.erPendRead k) s s ∧
      Becomes (.erLostClear value) s s) ∧
    (s.open = true →
      (let sense := fun (x : Source) => if fld value 6 4 < 6 then BitVec.ofNat 3 (fld value 6 4) else x.cfg.sense
       let cfg := fun (x : Source) =>
         { prio := fld value 3 0, sense := sense x, targets := BitVec.ofNat 5 (16 * fld value 12 12), wake := bit value 13,
           hostOwned := true, lowest := bit value 15 : SrcCfg }
       let l := r.sources.modify n fun x => if x.cfg.hostOwned = false then x else { x with cfg := cfg x }
       Becomes (.erSrcCfgWrite n value) s { s with relay := { r with sources := l } }) ∧
      (let l := r.sources.mapNum fun i x =>
        if i / 32 ≠ k ∨ x.cfg.hostOwned = false then x
        else if bit value (i % 32) = true then { x with pend := true }
        else if x.pend = false then x
        else { x with pend := false, byLevel := false
                      lost := if bit (r.shadow.getD k 0) (i % 32) = true ∨ levelMet x.cfg.sense x.level = true then x.lost
                              else clampU 8 (x.lost + 1) }
       Becomes (.erPendWrite k value) s { s with relay := { r with sources := l } }) ∧
      (let bits := BitVec.ofNat 64 (listMask ((List.range 32).filter fun i => (r.source (32 * k + i)).pend))
       Becomes (.erPendRead k) s { s with relay := { r with shadow := r.shadow.set k bits },
                                          dev := s.dev.onHost fun h => { h with readValue := bits } }) ∧
      (let l := r.sources.mapNum fun i x =>
        if x.cfg.hostOwned = true ∧ (bit value 9 = true ∨ fld value 8 0 = i) then { x with lost := 0 } else x
       Becomes (.erLostClear value) s { s with relay := { r with sources := l } }))

/-- With the registers open: a read of ER_CLAIM_H with no source deliverable to H returns EMPTY; else it returns the
source that is deliverable with the highest priority, the lower number on a tie, clears its pending bit and pushes
it. In both cases no message is outstanding from then on. A write of ER_COMPLETE_H that names the top of the stack
pops it; any other is an order fault: counted, recorded if it is the first, with RELAY_FAULT and source 371, the
stack as it was. FLUSH, in a command of its own or in bit 16 of the write, empties the stack. With the registers
closed nothing changes. Where this says more than the rules, it is the model's choice: log 94. (R345, R346, R347,
R348) -/
def Obligations.ClaimsAndCompletions : Prop :=
  ∀ (s : State) (value : Lane),
    let r := s.relay
    let asleep := linkAsleep s.dev.host.link
    let shown := fun (v : Lane) => s.dev.onHost fun h => { h with readValue := v }
    let free := fun (x : Source) => r.deliverable asleep x = true
    (s.open = false → Becomes .erClaimH s s ∧ Becomes (.erCompleteH value) s s ∧ Becomes .erCompleteFlush s s) ∧
    (s.open = true → (∀ x ∈ r.sources, ¬free x) →
      Becomes .erClaimH s { s with relay := { r with outstanding := [] }, dev := shown (BitVec.ofNat 64 (2 ^ 15)) }) ∧
    (s.open = true → ∀ n x, r.sources[n]? = some x → free x →
      (∀ m y, r.sources[m]? = some y → free y → y.cfg.prio < x.cfg.prio ∨ (y.cfg.prio = x.cfg.prio ∧ n ≤ m)) →
      let atClaim := !isPulseSource n && x.byLevel
      let q := { r with sources := r.sources.modify n fun y => { y with pend := false, byLevel := false }, outstanding := []
                        stack := { source := n, prio := x.cfg.prio, levelAtClaim := atClaim } :: r.stack }
      Becomes .erClaimH s { s with relay := q, dev := shown (claimLane n x.cfg.prio atClaim x.level) }) ∧
    (s.open = true → bit value 16 = false → ∀ e rest, r.stack = e :: rest → fld value 8 0 = e.source →
      Becomes (.erCompleteH value) s { s with relay := { r with stack := rest } }) ∧
    (s.open = true → bit value 16 = false → (∀ e ∈ r.stack.head?, fld value 8 0 ≠ e.source) →
      Becomes (.erCompleteH value) s
        { s with relay := r.orderFault (fld value 8 0), dev := (s.dev.setFlag flagRelayFault).pulse 371 } ∧
      (r.orderFault (fld value 8 0)).stack = r.stack) ∧
    (s.open = true → Becomes .erCompleteFlush s { s with relay := { r with stack := [] } }) ∧
    (s.open = true → bit value 16 = true → Becomes (.erCompleteH value) s { s with relay := { r with stack := [] } })

/-- With the registers closed REGISTER_WRITE changes nothing. A write to BAR0 that is not 64 bits wide and aligned is
logged through AER with source 342 and reaches no register; one to BAR2 is dropped. A write to BAR2 takes effect in
the pages of chart buffers with CAPTURE up, and there the word has good check bits. A write to BAR0 that reaches a
register with a command of its own acts as that command with no hardware bit in its cycle: GS_FLAGS, GS_RING_HRC,
MB_DOORBELL, MB_CANCEL, CP_COMMIT, WM_LATCH, ER_SRC_CFG, ER_PEND, ER_LOST_CLEAR, ER_COMPLETE_H, ER_FAULT, ER_WAKE
and TV_RC. MB_CMD takes a word while the slot is FREE, DONE or FAILED only; ER_MASK masks the host's sources of its
group; ER_STATE_H takes FLOOR; an entry of ER_WATCH takes its fields; the MSI-X table its defined bits; CP_CTRL, the
staged address, CP_BG and CP_CRC_EXPECT theirs while the Chart registers are open. CP_COMMIT with the Chart port's
registers open and COMMIT set commits the staged address in the line that the port has then reached: it is pending,
with MODE = OFF live, or refused; else it changes nothing. Where this says more than the rules, it is the model's
choice: log 10, 11, 12, 82 and 85. (R25, R223, R224, R259, R260, R261, R293, R295, R304, R336, R341, R349) -/
def Obligations.RegisterWritesAct : Prop :=
  ∀ (s : State) (w : HostWrite) (value : Lane),
    let ok := w.bytes = 8 ∧ w.offset % 8 = 0
    let a := w.offset / 8
    (s.open = false → Becomes (.registerWrite w) s s) ∧
    (s.open = true → ¬ok → w.bar2 = true → Becomes (.registerWrite w) s s) ∧
    (s.open = true → ¬ok → w.bar2 = false →
      Leads (.registerWrite w) s ((s.dev.onHost fun h => { h with aerCount := h.aerCount + 1 }).pulse 342)) ∧
    (s.open = true → ok → w.bar2 = true → s.dev.hostWritable a = false → Becomes (.registerWrite w) s s) ∧
    (s.open = true → ok → w.bar2 = true → s.dev.hostWritable a = true →
      Leads (.registerWrite w) s (s.dev.onCap fun c =>
        { c with mem := Mem.write c.mem a (w.value.setWidth 36), poisoned := c.poisoned.filter fun x => x != a })) ∧
    (s.open = true → ok → w.bar2 = false → Becomes (.registerWrite w) s (s.writeBar0 w.offset w.value)) ∧
    (∀ (slot : SlotId) (i : Nat), i < 32 →
      s.writeBar0 (0x1000 + 0x400 * slot.val + 0x100 + 8 * i) value =
        let x := s.dev.slot slot
        if slot.val < s.dev.host.slots.length ∧ (x.st = .free ∨ x.st = .done ∨ x.st = .failed) then
          { s with dev := s.dev.updSlot slot fun y => { y with cmd := y.cmd.set i (value.setWidth 36) } }
        else s) ∧
    (let wrote := fun (offset : Nat) => exec (.registerWrite ⟨false, offset, 8, value⟩) s
     s.open = true →
       wrote 0x10 = exec (.gsFlagsWrite value 0) s ∧ wrote 0x50 = exec (.gsRingHrcWrite value) s ∧
       (∀ slot : SlotId, wrote (0x1008 + 0x400 * slot.val) = exec (.mbDoorbell slot (value.setWidth 16)) s ∧
         wrote (0x1010 + 0x400 * slot.val) = exec (.mbCancel slot (value.setWidth 16)) s) ∧
       wrote 0x6020 = exec (.cpCommit value) s ∧ wrote 0x7008 = exec (.wmLatchWrite value 0) s ∧
       (∀ n, n < 384 → wrote (0x8000 + 8 * n) = exec (.erSrcCfgWrite n value) s) ∧
       (∀ k, k < 12 → wrote (0x8C00 + 8 * k) = exec (.erPendWrite k value) s) ∧
       wrote 0x8E80 = exec (.erLostClear value) s ∧ wrote 0x9008 = exec (.erCompleteH value) s ∧
       wrote 0x9020 = exec (.erFaultWrite value 0) s ∧ wrote 0x9300 = exec (.erWakeWrite value 0) s ∧
       (∀ n, n < 256 → wrote (0xD008 + 16 * n) = exec (.tvRcWrite n value) s)) ∧
    (∀ k, k < 12 → s.writeBar0 (0x8C80 + 8 * k) value = { s with relay := { s.relay with
      sources := s.relay.sources.mapNum fun n x =>
        if n / 32 = k ∧ x.cfg.hostOwned = true then { x with masked := bit value (n % 32) } else x } }) ∧
    s.writeBar0 0x9010 value = { s with relay := { s.relay with floor := fld value 7 4 } } ∧
    (∀ i, i < 32 → s.writeBar0 (0x9100 + 8 * i) value =
      { s with watch := { s.watch with entries := s.watch.entries.modify i fun e => e.write value } }) ∧
    (∀ e : WatchEntry, e.write value =
      { source := fld value 8 0, sense := if fld value 11 9 < 6 then BitVec.ofNat 3 (fld value 11 9) else e.sense
        enable := bit value 12 }) ∧
    (∀ i, i < 128 → s.writeBar0 (0xC000 + 8 * i) value = { s with dev := s.dev.onHost fun h =>
      { h with msixTable := h.msixTable.set i (if i % 2 = 0 then value &&& ~~~3 else value &&& 0x1FFFFFFFF) } }) ∧
    (let chart := fun (o : Nat) (c : Chart) => s.writeBar0 (0x6000 + o) value =
       if s.chartOpen = true then { s with dev := s.dev.onChart fun _ => c } else s
     let c := s.dev.cap.chart
     chart 0x00 { c with scanEn := bit value 0, crcEn := bit value 1, check := BitVec.ofNat 8 (fld value 15 8) } ∧
     chart 0x10 { c with staged := { c.staged with addr := fld value 31 0 } } ∧
     chart 0x18 { c with staged := { c.staged with stride := fld value 23 0, format := fld value 25 24 } } ∧
     chart 0x40 { c with bg := value.setWidth 24 } ∧
     ∀ r, r < 8 → chart (0xC0 + 8 * r) { c with crcExpect := c.crcExpect.set r (value.setWidth 32) }) ∧
    (let u := s.dev.nextFree
     s.chartOpen = true → bit value 0 = true → Leads (.cpCommit value) s
       (u.2.onChart fun c => (c.pastLines (Config.chartLines u.1)).commit c.staged)) ∧
    (∀ (c : Chart) (a : FbAddr), c.addrOk c.commitMode a = true →
      (c.mode ≠ 0 → (c.commit a).slot = some a ∧ (c.commit a).refused = false ∧ (c.commit a).live = c.live) ∧
      (c.mode = 0 → c.commitMode = 0 → (c.commit a).live = a ∧ (c.commit a).slot = none)) ∧
    (∀ (c : Chart) (a : FbAddr), c.addrOk c.commitMode a = false → c.commit a = { c with refused := true }) ∧
    (s.chartOpen = false ∨ bit value 0 = false → Becomes (.cpCommit value) s s)

/-- A block read in a powered Watch domain returns the register that its command names, bit by bit as R351, R57 and R349
give them: identity, status, hold-up in mV, WM_STATE, WM_LATCH with its counter, WM_MODE, WM_CFG, ER_WAKE and the
entries of ER_WATCH; an unknown command reads 0; and nothing else changes. A block write of 8 bytes with a good PEC
writes WM_LATCH, ER_WAKE or an ER_WATCH entry as its command says, and nothing else; a write with another length, a
bad PEC or no power is discarded, and with power its last byte is not acknowledged. Alert Response releases ALERT_N,
and answers the address 0x40 + DEV_ADDR while the powered Naset asserted it. A timeout leaves the interface idle and
nothing else changed. Where this says more than the rules, it is the model's choice: log 13, 96 and 130. (R53, R56,
R57, R349, R350, R351) -/
def Obligations.SmbusReachesTheWatchDomain : Prop :=
  ∀ (s : State) (cmd : Byte) (count : Nat) (pec : Bool) (value hw : Lane),
    let w := { s.watch with smbusBusy := false }
    let n := cmd.toNat
    let u := { w with smbusNack := false }
    let wrote := fun (x : Watch) => Becomes (.smbusBlockWrite cmd count pec value hw) s { s with watch := x }
    let good := count = 8 ∧ pec = true ∧ w.powered = true
    let v := s.smbusValue n
    let mon := s.watch.monitor
    let two := fun (m : Nat) => fld v (2 * m + 1) (2 * m)
    (s.watch.powered = true → Becomes (.smbusBlockRead cmd) s
      { s with watch := w, dev := s.dev.onHost fun h => { h with readValue := v } }) ∧
    (n = 0x01 → fld v 63 48 = 0x7E5A ∧ fld v 47 32 = 0x0960 ∧ fld v 31 24 = Config.siRev.toNat ∧ fld v 23 0 = 0) ∧
    (n = 0x02 → v.getLsbD 0 = s.watch.perstPin ∧ v.getLsbD 1 = !s.watch.perstN ∧ v.getLsbD 2 = s.watch.pwrFailN ∧
      fld v 7 3 = 0 ∧ fld v 15 8 = s.watch.postedState.code ∧ fld v 63 16 = 0) ∧
    (n = 0x03 → v = BitVec.ofNat 64 s.watch.holdupResult.1) ∧
    (n = 0x10 → (∀ m, m < 16 → two m =
      if s.watch.borrowed m = true ∨ (mon m).enable = false then 3 else (mon m).state % 4) ∧ fld v 63 32 = 0) ∧
    (n = 0x11 → (∀ m, m < 16 → v.getLsbD m = (mon m).belowSeen ∧ v.getLsbD (16 + m) = (mon m).aboveSeen) ∧ fld v 63 32 = 0) ∧
    (n = 0x12 → v = s.watch.latchAgain.setWidth 64) ∧
    (n = 0x13 → (∀ m, m < 16 → two m = (mon m).mode % 4 ∧ v.getLsbD (32 + m) = (mon m).enable) ∧
      v.getLsbD 48 = s.watch.borrowed 15 ∧ fld v 63 49 = 0) ∧
    (∀ m, m < 16 → n = 0x20 + m → fld v 11 0 = (mon m).lo % 4096 ∧ fld v 15 12 = 0 ∧ fld v 27 16 = (mon m).hi % 4096 ∧
      v.getLsbD 28 = (mon m).period ∧ fld v 33 29 = (mon m).j % 32 ∧ fld v 63 34 = 0) ∧
    (n = 0x30 → fld v 31 0 = s.watch.seen.toNat ∧ fld v 47 32 = s.watch.wakeAgain.toNat ∧ v.getLsbD 48 = s.watch.alert ∧
      v.getLsbD 49 = s.watch.hWake ∧ fld v 63 50 = 0) ∧
    (∀ i e, s.watch.entries[i]? = some e → i < 32 → n = 0x40 + i → fld v 8 0 = e.source % 512 ∧ fld v 11 9 = e.sense.toNat ∧
      v.getLsbD 12 = e.enable ∧ fld v 63 13 = 0) ∧
    (n ∉ [0x01, 0x02, 0x03, 0x10, 0x11, 0x12, 0x13, 0x30] → ¬(0x20 ≤ n ∧ n ≤ 0x2F) → ¬(0x40 ≤ n ∧ n ≤ 0x5F) → v = 0) ∧
    (s.watch.powered = false → Becomes (.smbusBlockRead cmd) s s) ∧
    (¬good → wrote { w with smbusNack := w.powered && (count != 8 || !pec) }) ∧
    (good → n = 0x11 → wrote (u.latchWrite value hw)) ∧
    (good → n = 0x30 → wrote (u.wakeWrite value hw)) ∧
    (good → 0x40 ≤ n ∧ n ≤ 0x5F → wrote { u with entries := w.entries.modify (n - 0x40) fun e => e.write value }) ∧
    (good → n ≠ 0x11 → n ≠ 0x30 → ¬(0x40 ≤ n ∧ n ≤ 0x5F) → wrote u) ∧
    Becomes .alertResponse s { s with
      watch := { w with alert := false }
      dev := if s.watch.powered = true ∧ s.watch.alert = true then s.dev.onHost fun h =>
          { h with readValue := BitVec.ofNat 64 (0x40 + s.watch.straps.devAddr.toNat) }
        else s.dev } ∧
    Becomes .smbusTimeout s { s with watch := w }

/-- HOST_SLEEP_CHANGE out of PERST_N gives the host link its new state, a link that is up with the widest of x8, x4 and
x1 that its lanes and the strap PE_WIDTH allow, and in PERST_N changes nothing. A PCIe event raises source 342.
EVENT_SOURCE_ASSERT sends the source's pulse or level to the relay. MONITOR_EXCURSION of an enabled monitor, with
power and outside a hold-up measurement that borrows it, is reported and latched and sets the level of source 352 +
m, and a main part held in reset by its rails goes on once monitors 0 to 7, all enabled, report inside; it ends the
response time after a borrowing, and a SET_MONITOR that waited for that end takes its place; of another monitor it
reports nothing. LATCH_PERIOD_END shows a period monitor's last period, and leaves a borrowed monitor alone. Where
this says more than the rules, it is the model's choice: log 3, 41, 99 and 140. (R54, R55, R56, R291, R338, R341,
R342, R352, R353, R366, R398, R405) -/
def Obligations.InputsReachTheirRegisters : Prop :=
  ∀ (s : State) (link : LinkState) (e : PcieEvent) (n m : Nat) (on : Bool) (report : Fin 3),
    (let width := min link.lanes (if s.watch.straps.peWidth = 0 then 8 else if s.watch.straps.peWidth = 1 then 4 else 1)
     let lanes := if 8 ≤ width then 8 else if 4 ≤ width then 4 else if 1 ≤ link.lanes then 1 else 0
     s.watch.perstN = true → Leads (.hostSleepChange link) s (s.dev.onHost fun h =>
       { h with link := { link with lanes := if link.linkUp = true then lanes else 0 } })) ∧
    (s.watch.perstN = false → Becomes (.hostSleepChange link) s s) ∧
    Leads (.linkEvent e) s (s.dev.pulse 342) ∧
    Leads (.eventSourceAssert n on) s (if isPulseSource n then s.dev.pulse n else s.dev.level n on) ∧
    (let reports := (s.watch.monitor m).enable = true ∧ s.watch.powered = true ∧ (m = 15 → s.watch.holdup = none)
     let waits := m = 15 ∧ s.watch.borrowTail ≠ 0 ∧ s.watch.laterMonitor ≠ none
     let w := { s.watch with borrowTail := if m = 15 then 0 else s.watch.borrowTail }
     let u := { s with watch := w.updMonitor m fun x => { x with state := report.val }.latch
                       dev := s.dev.level (352 + m) (report.val != 0) }
     (reports → ¬waits → Becomes (.monitorExcursion m report) s u.mainReady) ∧
     (reports → waits → ∀ c, s.watch.laterMonitor = some c → Becomes (.monitorExcursion m report) s
       ({ s with watch := { w with laterMonitor := none } }.setMonitor 15 c).mainReady) ∧
     (¬reports → Becomes (.monitorExcursion m report) s s.mainReady)) ∧
    (s.watch.held = false ∨ (∃ k, k < 8 ∧ ¬((s.watch.monitor k).enable = true ∧ (s.watch.monitor k).state = 0)) →
      s.mainReady = s) ∧
    (s.watch.borrowed m = false → Becomes (.latchPeriodEnd m) s { s with watch := s.watch.updMonitor m fun x =>
      if x.period = true then { x with belowSeen := x.belowNow, aboveSeen := x.aboveNow, belowNow := x.state == 1,
                                       aboveNow := x.state == 2 }
      else x }) ∧
    (s.watch.borrowed m = true → Becomes (.latchPeriodEnd m) s s)

/-- COMPARATOR_A_EDGE and COMPARATOR_B_EDGE that flip an output, the bank up, give it its new state and reach no channel
but its own and its partner's. A FAST A edge at the pin that no runt qualification judges and that the prescaler
keeps joins the lines of its channel; with B_FUNC = PARTNER a FAST B edge joins the partner's, with its own D_c:
counted, dealt by the mode, its settings those of the frame. An edge that flips nothing, or with the bank down,
changes nothing; of A out of FAST, or of B with LEVEL, it sets output and level only. COMPARATOR_SETTLED settles a
comparator that is UNSETTLED, not parked and past its settle time, its output the state found; else nothing changes.
LINE_READ of the edge that waits puts it in the FIFO, or loses it where 64 wait; another reading changes nothing.
STAMP_RETIRE assembles the next edge: its time is the mean of its lines' times less D_c, judged and counted in its
frame; it is stamped, withheld by qualification, or with a bad parity lost; with nothing assembled the FIFO drains
only. STAMP_CHECK with an error discards the edges of its cycle, counts those at the pin as lost, takes one of the
two counts, and parks the channel after two unrecoverable cycles; else it changes nothing. Where this says more than
the rules, it is the model's choice: log 3, 33, 34, 35, 36, 126 and 127. (R18, R40, R42, R45, R62, R64, R65, R70,
R75, R79, R82) -/
def Obligations.EdgesBecomeStamps : Prop :=
  ∀ (s : State) (x : Crossing) (ch now : Nat) (compB above bad good mis : Bool) (time n : Nat) (codes : List LineCode),
    let d := s.dev
    let f := d.tb.frame
    let c := d.chan x.ch
    let p := partnerOf x.ch
    let up := d.partUp (bankOf x.ch) = true
    let flipsA := c.a.flips x.rising = true
    let flipsB := c.b.flips x.rising = true
    let afterA := (d.updChan x.ch fun y => { y with a := y.a.transition x.rising x.time }).compLevels x.ch false
    let afterB := (d.updChan x.ch fun y => { y with b := y.b.transition x.rising x.time }).compLevels x.ch true
    let takes := fun (q : Nat) => (d.chan q).cfg.edgeSel.keeps x.rising = true ∧ (d.chan q).prescale % (d.chan q).cfg.decim = 0 ∧
      d.partUp partStamp = true ∧ d.partUp (bankOf q) = true ∧ d.tb.running = true ∧ d.survey.leadIn ≠ some f ∧
      d.inCalibrate q = false
    let joins := fun (e : Dev) (q : Nat) (dc : Int) (partner : Bool) => e.updChan q fun y =>
      let edge : Edge := { frame := f, at_ := x.time, dc := dc, bFunc := y.cfg.bFunc, rising := x.rising, mode := y.mode,
                           lines := dealLines y.mode (shadowLine f) y.deal, codes := [], runt := .none, partner := partner,
                           atPin := true, credits := 0, cap := none }
      { (y.updRec f fun r => { r with sorted := r.sorted + 1 }) with
        prescale := y.prescale + 1, inLines := y.inLines ++ [edge], deal := y.deal + 1 }
    let k := (d.chan ch).comp compB
    let due := d.partUp (bankOf ch) = true ∧ k.mode ≠ .park ∧ k.settled = false ∧ k.settleEnd * 4096 ≤ time
    (¬up ∨ ¬flipsA → Becomes (.comparatorAEdge x) s s) ∧ (¬up ∨ ¬flipsB → Becomes (.comparatorBEdge x) s s) ∧
    (up → flipsA → ∃ t, exec (.comparatorAEdge x) s = .next t ∧ (∀ q, q ≠ x.ch → t.dev.chan q = d.chan q) ∧
      (x.ch < d.chans.length → (t.dev.chan x.ch).a = { c.a.transition x.rising x.time with sent := x.rising } ∧
        (t.dev.chan x.ch).b = c.b)) ∧
    (up → flipsB → ∃ t, exec (.comparatorBEdge x) s = .next t ∧ (∀ q, q ≠ x.ch → q ≠ p → t.dev.chan q = d.chan q) ∧
      (x.ch < d.chans.length → (t.dev.chan x.ch).b = { c.b.transition x.rising x.time with sent := x.rising } ∧
        (t.dev.chan x.ch).a = c.a)) ∧
    (up → flipsA → c.a.mode = .fast → c.switch = .pin → c.cfg.bFunc.qualifies = false → (d.chan p).cfg.bFunc ≠ .partner →
      takes x.ch → Leads (.comparatorAEdge x) s (joins afterA x.ch (c.dc false x.rising) false)) ∧
    (up → flipsB → c.cfg.bFunc = .partner → c.b.mode = .fast → c.switch = .pin → takes p →
      Leads (.comparatorBEdge x) s (joins afterB p (c.dc true x.rising) true)) ∧
    (up → flipsA → c.a.mode ≠ .fast → Leads (.comparatorAEdge x) s afterA) ∧
    (up → flipsB → c.cfg.bFunc = .level → c.switch = .pin → Leads (.comparatorBEdge x) s afterB) ∧
    (due → ∃ t, exec (.comparatorSettled ch compB above time) s = .next t ∧
      (ch < d.chans.length → ((t.dev.chan ch).comp compB).settled = true ∧ ((t.dev.chan ch).comp compB).out = above ∧
        (t.dev.chan ch).cfg = (d.chan ch).cfg ∧ (t.dev.chan ch).comp (!compB) = (d.chan ch).comp (!compB)) ∧
      (∀ q, q ≠ ch → t.dev.chan q = d.chan q)) ∧
    (¬due → Becomes (.comparatorSettled ch compB above time) s s) ∧
    (d.partUp partStamp = false ∨ (∀ e ∈ (d.chan ch).inLines.head?, codes.map LineCode.line ≠ e.lines) →
      Becomes (.lineRead ch codes) s s) ∧
    (∀ e rest, (d.chan ch).inLines = e :: rest → codes.map LineCode.line = e.lines → d.partUp partStamp = true →
      let e1 := { e with codes := codes }
      let y := ({ d.chan ch with inLines := rest } : Channel).drainTo e1.readAt
      let g := d.frameOfCc e1.readAt
      Leads (.lineRead ch codes) s
        (if y.fifo.length < 64 then d.updChan ch fun _ => { y with fifo := y.fifo ++ [e1] }
         else (d.updChan ch fun _ => y.lose g (b2n e.atPin) false).lateLoss g (b2n e.atPin))) ∧
    (let e := d.updChan ch fun y => y.drainTo now
     ((e.chan ch).assembled = [] → Leads (.stampRetire ch now bad) s e) ∧
     (∀ a rest, (e.chan ch).assembled = a :: rest →
       let times := a.codes.map fun l =>
         (l.count : Int) * 65536 - ((d.chan ch).line l.line).lut (decide (a.frame < f)) l.tap - a.dc
       let v := assemble times
       let t := (meanTime v.used).toNat
       let judged := e.updChan ch fun y => ({ y with assembled := rest } : Channel).judgedEdge (d.frameOfEdge a t) a v
       let g := d.frameOfEdge a (a.readAt * 4096)
       let stamped := stampsEdge a.bFunc a.runt = true
       (¬stamped → Leads (.stampRetire ch now bad) s judged) ∧
       (stamped → bad = false → Leads (.stampRetire ch now bad) s
         (judged.updChan ch fun y => y.take (d.frameOfEdge a t) ⟨t, ch, a.rising, a.mode⟩ a.atPin)) ∧
       (stamped → bad = true → Leads (.stampRetire ch now bad) s
         ((judged.updChan ch fun y => y.lose g (b2n a.atPin) true).lateLoss g (b2n a.atPin))))) ∧
    (∀ (y : Channel) (g : Nat) (z : Stamp), (∃ r ∈ y.frames, r.frame = g) →
      ((y.take g z true).record g).stamps = (y.record g).stamps ++ [z]) ∧
    (d.partUp partStamp = false ∨ (good = true ∧ mis = false) → Becomes (.stampCheck ch now good mis n) s s) ∧
    (d.partUp partStamp = true → good = false ∨ mis = true → ∃ t, exec (.stampCheck ch now good mis n) s = .next t ∧
      (∀ q, q ≠ ch → t.dev.chan q = d.chan q) ∧
      (ch < d.chans.length →
        let y := d.chan ch
        let z := t.dev.chan ch
        let hit := fun (e : Edge) => e.readAt == now
        let lost := ((y.fifo.filter hit ++ y.assembled.filter hit ++ y.inLines.take n).filter Edge.atPin).length
        z.fifo = y.fifo.filter (fun e => e.readAt != now) ∧ z.assembled = y.assembled.filter (fun e => e.readAt != now) ∧
        z.inLines = y.inLines.drop n ∧ z.stampCheckTotal = y.stampCheckTotal + 1 ∧
        z.lostTotal = (if lost = 0 then y.lostTotal else clampU 48 (y.lostTotal + lost)) ∧
        z.localCount = (if good then now else y.localCount + (now - y.localAt)) ∧ z.localAt = now ∧
        (z.parked = true ↔ y.parked = true ∨ (good = false ∧ mis = true ∧ y.badCycle = some (now - 1)))))

/-- COARSE_MISMATCH with the counters running enters FAULT 0x01, the check counter then holding a free value; THERMAL_HW
enters FAULT 0x04 with the Survey groups and CHART held in reset from then on; SUPPLY_FAULT of a monitor from 0 to 7
that reports enters FAULT 0x05; WATCHDOG with firmware running raises source 383 and enters SAFE 0x11, or in BOOT
marks the image as failed and restarts. A corrected ECC_ERROR and what MEMORY_SCRUB corrected are counted, with
source 373 at most once in 2,500,000 cycles. An uncorrectable error is counted, raises source 373, and does what its
place says: a table entry loses the edge that it was read for, a reducer sum saturates, a Survey group or COMPASS
loses its frame's work and counts towards the storm of FAULT_CODE 0x13 (17 in 2,500,000,000 cycles), a capture word
reads poisoned with an AER report and source 342, the batch being copied is damaged, a staged sheet and a traverse's
waiting sheet are cut before the word, and a word of the Gazetteer makes its bank, slot, record or block invalid,
the calibration store and the identity block entering SAFE 0x14. In PERST_N, before the counters or without firmware
nothing changes. Where this says more than the rules, it is the model's choice: log 3, 18, 105, 115, 116, 155 and
176. (R78, R79, R224, R355, R363, R382, R383, R384, R386, R387, R388, R389) -/
def Obligations.CausesEnterFaultOrSafe : Prop :=
  ∀ (s : State) (m n : Nat) (place : EccPlace),
    let d := s.dev
    let up := s.watch.perstN = true
    let x := s.watch.monitors.getD m externalMonitor
    let bad := up ∧ m < 8 ∧ (x.state = 1 ∨ x.state = 2)
    let enters := fun (i : Instr) (u : State) (code : Nat) => Becomes i s (u.enterFault code) ∧
      ∃ t, exec i s = .next t ∧ t.dev.gs.faultCode = code ∧
        t.dev.gs.op = (if code < 0x10 ∨ u.dev.gs.op = .fault then OpState.fault else .safe)
    let now := d.tb.now
    let quiet := d.fw.eccRaised.any fun t => decide (t ≤ now ∧ now < t + 2500000)
    let corrected := fun (k : Nat) => if k = 0 then d else (d.onFw fun w =>
      { w with eccCorrected := clampU 32 (w.eccCorrected + k), eccRaised := if quiet then w.eccRaised else some now }).when
        (!quiet) fun e => e.pulse 373
    (up → d.tb.running = true → enters .coarseMismatch
      { s with dev := (d.onGs fun g => { g with free := g.free + 1 }).onTb fun t =>
        { t with coarseCheck := BitVec.ofNat 48 (Config.unstated d.gs.free) } } 0x01) ∧
    (¬up ∨ d.tb.running = false → Becomes .coarseMismatch s s) ∧
    (up → s.watch.powered = true →
      let held := ((List.range 31).map partSurvey ++ [partChart]).filter fun p => d.partUp p
      enters .thermalHw { s with dev := (d.each held fun e p => e.stopPart p 3).onFw fun w => { w with hwHeld := true } } 0x04) ∧
    (¬up ∨ s.watch.powered = false → Becomes .thermalHw s s) ∧
    (bad → enters (.supplyFault m) s 0x05) ∧ (¬bad → Becomes (.supplyFault m) s s) ∧
    (s.dogArmed = true → s.boot.running = false → enters .watchdog { s with dev := d.pulse 383 } 0x11) ∧
    (s.dogArmed = true → s.boot.running = true → Becomes .watchdog s { s with dev := d.pulse 383 }.restart ∧
      ∃ t, exec .watchdog s = .next t ∧ t.boot.failedA = (s.boot.failedA || s.boot.activeSlot == 1) ∧
        t.boot.failedB = (s.boot.failedB || s.boot.activeSlot == 2) ∧ t.dev.gs.op = d.gs.op) ∧
    (s.dogArmed = false → Becomes .watchdog s s) ∧
    (up → Leads (.eccError place true) s (corrected 1)) ∧ (up → Leads (.memoryScrub n) s (corrected n)) ∧
    (¬up → (∀ c, Becomes (.eccError place c) s s) ∧ Becomes (.memoryScrub n) s s) ∧
    (up →
      let e := (d.onFw fun w => { w with eccUncorrectable := clampU 32 (w.eccUncorrectable + 1) }).pulse 373
      let i := Instr.eccError place false
      let times := now :: d.fw.eccTimes.filter fun t => decide (now < t + 2500000000)
      let storm := fun (u : Dev) =>
        (16 < times.length → enters i { s with dev := u.onFw fun w => { w with eccTimes := times } } 0x13) ∧
        (times.length ≤ 16 → Leads i s (u.onFw fun w => { w with eccTimes := times }))
      (∀ ch line, place = .tableEntry ch line → Leads i s (e.tableLoss ch line)) ∧
      (∀ ch, place = .reducerSum ch → Leads i s
        (e.updChan ch fun y => y.updRec d.tb.frame fun r => { r with saturated := true })) ∧
      (∀ g, place = .surveyMemory g → storm (e.enterSurvey g)) ∧
      (place = .compassMemory → storm (e.markWork fun f => { f with lateAll := true })) ∧
      (∀ a, place = .captureWord a → Leads i s
        (((e.onCap fun c => { c with poisoned := if a ∈ c.poisoned then c.poisoned else a :: c.poisoned }).onHost fun h =>
          { h with aerCount := h.aerCount + 1, readValue := BitVec.ofNat 64 (2 ^ 36 - 1) }).pulse 342)) ∧
      (place = .resultRing → Leads i s (e.onRing fun r => { r with damaged := r.damaged || !r.jobs.isEmpty })) ∧
      (∀ seq w, place = .atlasStaging seq w → Leads i s (e.onAtlas fun a => a.cutBad w fun y => y.isStaged && y.seq == seq)) ∧
      (∀ k w, place = .traverseWord k w → Leads i s
        (e.onAtlas fun a => a.cutBad w fun y => y.type == shTraverse && y.source == k)) ∧
      (place = .otherSram → Leads i s e) ∧
      (∀ o, place = .gazetteer o →
        let g := s.watch.gaz.spoil o
        let u := { s with dev := e, watch := { s.watch with gaz := g } }
        let store := regionAt o = some .calibration ∨ blockAt o = some .identity
        (store → enters i u 0x14) ∧ (¬store → Becomes i s u) ∧
        (∀ b, regionAt o = some (.bank b) → ∀ y, g.bank b = some y → y.valid = false) ∧
        (∀ b, regionAt o = some (.slot b) ∨ blockAt o = some (.record b) → g.validImage b = none) ∧
        (blockAt o = some .keys → ∀ k, g.keys.key k = none) ∧ (blockAt o = some .board → g.holdupC = 0)) ∧
      ∃ t, exec i s = .next t ∧ t.dev.fw.eccUncorrectable = clampU 32 (d.fw.eccUncorrectable + 1))

/-- Whatever the state, a cause of FAULT (a code below 0x10) or SAFE leads to FAULT, or to SAFE from a state other than
FAULT, with its code in FAULT_CODE. Where the state changes, every comparator is in PARK and every switch at the
pin, no transition waits, no run is under way, no gate is open and no change of k or clock commit is pending; each
deferred effect left is legal in the new state; every command ACCEPTED or RUNNING that is not legal there is FAILED
with E_STATE; a traverse that was PENDING is FROZEN, its window ending with the last frame that had committed; and
on FAULT the flag FAULT is set and vector 32 signalled. Where it does not change, nothing but the code and the exit
does. The exit is the strictest one: once a cause is left by a reset only, every later one is. Queue, relay and pins
stand. (R52, R237, R315, R316, R383, R384, R385) -/
def Obligations.FaultStopsTheRun : Prop :=
  ∀ (s : State) (code : Nat),
    let o := if code < 0x10 ∨ s.dev.gs.op = .fault then OpState.fault else .safe
    let t := s.enterFault code
    let hard := (code != 0x02 && code != 0x03) || s.dev.gs.hardExit
    t.dev.gs.op = o ∧ t.dev.gs.faultCode = code ∧ t.pending = s.pending ∧ t.relay = s.relay ∧ t.watch.perstN = s.watch.perstN ∧
    (s.dev.gs.op = o →
      t = { s with dev := s.dev.onGs fun g => { g with faultCode := code, hardExit := hard } }) ∧
    t.dev.gs.hardExit = hard ∧
    (s.dev.gs.op ≠ o →
      (∀ x ∈ t.dev.chans, x.a.mode = .park ∧ x.b.mode = .park ∧ x.a.settled = false ∧ x.b.settled = false ∧ x.switch = .pin) ∧
      t.dev.gs.transitions = [] ∧ t.dev.survey.inRun = false ∧ (∀ r ∈ t.dev.survey.items, r.phase = .idle) ∧
      t.dev.tb.pendingK = none ∧ t.dev.tb.commits = [] ∧ (∀ e ∈ t.dev.fw.deferred, opLegal o e.opcode = true) ∧
      (∀ i, i < 16 → i < s.dev.host.slots.length → (s.dev.slot i).busy = true → (s.dev.cmdOf i).legalIn o = false →
        (t.dev.slot i).st = .failed ∧ (t.dev.slot i).error = BitVec.ofNat 8 eState) ∧
      (∀ n x trig pre post last save, s.dev.traverse n = some x → x.freeze = .pending trig pre post last save →
        x.from_ ≤ s.dev.tb.frame → ∃ y, t.dev.traverse n = some y ∧ y.freeze = .frozen ∧ y.trigFrame = trig ∧
          y.lastFrame = min (trig + post) x.committed) ∧
      (o = .fault → t.dev.gs.flags.getLsbD flagFault = true ∧ messaged t 32))

/-- With the counters running, firmware started, with COMPASS up and a multiple of 2,500,000 cycles in the frame not yet
evaluated, THERMAL_EVALUATION completes: that multiple is evaluated; it keeps the temperatures, and whether the
hottest is above 108.0 °C. Above 100.0 °C CHART sheds, with the flag THERMAL as it begins; after 100 evaluations in
a row at or below 97.0 °C it no longer does. Two evaluations in a row above 108.0 °C enter FAULT 0x03. Otherwise the
evaluations in a row at or below 95.0 °C are counted, and 10,000 of them end the thermal cause: FAULT is left for
READY if no other cause stands and no image is starting. In any other case nothing changes. Where this says more
than the rules, it is the model's choice: log 114, 115 and 142. (R266, R382, R384, R389) -/
def Obligations.HeatShedsAndFaults : Prop :=
  ∀ (s : State) (temps : List Int),
    let d := s.dev
    let hot := hottest temps
    let on := s.watch.perstN = true ∧ d.tb.running = true ∧ (d.gs.op ≠ .boot ∨ d.fw.started = true) ∧
      d.partUp partCompass = true ∧
      (d.fw.thermalAt + 1) * 2500000 < d.frameEnd
    let enters := 864 < hot ∧ d.fw.hotBefore = true ∧ d.fw.thermal = false
    let cool := if hot ≤ 776 then d.fw.coolShed + 1 else 0
    let cold := if hot ≤ 760 then d.fw.coolFault + 1 else 0
    let ends := d.fw.thermal = true ∧ 10000 ≤ cold
    (¬on → Becomes (.thermalEvaluation temps) s s) ∧
    (on → ∃ t, exec (.thermalEvaluation temps) s = .next t ∧
      t.dev.fw.temps = temps ∧ t.dev.fw.thermalAt = d.fw.thermalAt + 1 ∧ t.dev.fw.hotBefore = decide (864 < hot) ∧ t.dev.fw.coolShed = cool ∧
      (t.dev.cap.chart.shed = if 800 < hot then true else d.cap.chart.shed && decide (cool < 100)) ∧
      (enters ∨ (800 < hot ∧ d.cap.chart.shed = false) → t.dev.gs.flags.getLsbD flagThermal = true) ∧
      (enters → t.dev.gs.op = .fault ∧ t.dev.gs.faultCode = 0x03 ∧ t.dev.fw.thermal = true) ∧
      (¬enters → t.dev.fw.coolFault = cold ∧ (t.dev.fw.thermal = true ↔ d.fw.thermal = true ∧ ¬ends) ∧
        t.dev.gs.op = if ends ∧ s.boot.running = false ∧ d.gs.op = .fault ∧ d.gs.hardExit = false ∧ d.fw.relock = false
          then .ready else d.gs.op))

/-- LOCK_WINDOW_END out of PERST_N keeps the count of the ADPLL. Within 2 counts of its target, 100 × 2^20 × (1 + s) for
the Meridian, an unlocked ADPLL is declared locked, and the counters start with the first lock of the Meridian; more
than 64 off a locked one loses lock: the Meridian with source 347 and FAULT 0x02, another with source 350 or 351 and
its number in LAST_LOSS; between, with the loop open, or in PERST_N, no lock changes. COARSE_WRAP at a next tick
that is a wrap zeroes the coarse counter and takes the epoch on; else it changes nothing. STABILITY_EVALUATION at
its multiple of 2,500,000,000 cycles keeps the last 60 means, the mean of s where REF_IN steers, and decides TB_WARM
for the next tick; else it changes nothing. OCXO_WARM rising starts the 60 s; falling clears what was to come, and
its frame is cold. Where this says more than the rules, it is the model's choice: log 3, 55, 59, 141, 142 and 163.
(R58, R113, R115, R116, R117, R118, R119, R382) -/
def Obligations.LocksAndCounters : Prop :=
  ∀ (s : State) (p : Adpll) (count cc : Nat) (mean : Int),
    let d := s.dev
    let t := d.tb
    let off := ((count : Int) - d.lockTarget p).natAbs
    let up := s.watch.perstN = true
    let pll := t.pll p
    let locked := pll.locked = true
    let closed := pll.openLoop = false
    let c := d.onTb fun u => u.setPll p { pll with count := count }
    let wraps := t.running = true ∧ t.nominal (t.frame + 1) % 2 ^ 48 = 0
    (p = .meridian → d.lockTarget p = roundDiv (100 * 2 ^ 20 * (2 ^ 48 + t.steer)) (2 ^ 48)) ∧
    (¬up → Becomes (.lockWindowEnd p count cc) s s) ∧
    (up → ¬closed ∨ (2 < off ∧ off ≤ 64) ∨ (off ≤ 2 ∧ locked) ∨ (64 < off ∧ ¬locked) → Leads (.lockWindowEnd p count cc) s c) ∧
    (up → closed → off ≤ 2 → ¬locked → Leads (.lockWindowEnd p count cc) s (c.declareLock p) ∧
      ((c.declareLock p).tb.pll p).locked = true ∧ (p = .meridian → (c.declareLock p).tb.running = true) ∧
      (p = .meridian → t.running = false → (c.declareLock p).tb.frame = 0 ∧ (c.declareLock p).tb.tickCount = 0)) ∧
    (up → closed → 64 < off → locked → p = .meridian → ∃ u, exec (.lockWindowEnd p count cc) s = .next u ∧
      u.dev.tb.meridian.locked = false ∧ u.dev.tb.syncAligned = false ∧ u.dev.fw.relock = true ∧ u.dev.gs.op = .fault ∧
      u.dev.gs.faultCode = 0x02 ∧ u.dev.tb.engine.openLoop = true ∧ u.dev.tb.store.openLoop = true ∧
      u.dev.tb.chart.openLoop = true ∧
      ∃ e : Dev, e.signals = d.signals ∧ u = ({ s with dev := e.pulse 347 }.enterFault 0x02).settle) ∧
    (up → closed → 64 < off → locked → p ≠ .meridian → Leads (.lockWindowEnd p count cc) s (c.loseLock p) ∧
      ((c.loseLock p).tb.pll p).locked = false ∧ (c.loseLock p).tb.lastLoss = adpllCode p) ∧
    (wraps → Leads .coarseWrap s (d.onTb fun u => { u with coarse := 0, coarseCheck := 0
                                                           epoch := BitVec.ofNat 16 (t.nominal (t.frame + 1) / 2 ^ 48) })) ∧
    (¬wraps → Becomes .coarseWrap s s) ∧
    (let due := t.running = true ∧ (t.evaluated + 1) * 2500000000 < d.frameEnd
     (¬due → Becomes (.stabilityEvaluation mean) s s) ∧
     (due →
      let means := ((if t.refPresent = true ∧ t.cfg.refSrc = 1 then t.steerMean else mean) :: t.means).take 60
      let steady := means.length = 60 ∧ (minMax means).2 - (minMax means).1 ≤ 5000
      let warm := t.ocxoWarm && decide (t.warmSince + 60 ≤ t.evaluated + 1) && decide steady
      Leads (.stabilityEvaluation mean) s
        (d.onTb fun u => { u with means := means, evaluated := u.evaluated + 1, warmNext := warm }))) ∧
    (t.ocxoWarm = true → Becomes (.ocxoWarmChange true) s s) ∧
    (t.ocxoWarm = false → Leads (.ocxoWarmChange true) s (d.onTb fun u =>
      { u with ocxoWarm := true, warmSince := if u.running = true then u.evaluated + 1 else 0 })) ∧
    (∃ u, exec (.ocxoWarmChange false) s = .next u ∧ u.dev.tb.ocxoWarm = false ∧ u.dev.tb.warmNext = false ∧
      (t.ocxoWarm = true → u.dev.tb.ocxoFell = true ∧ ∀ i ∈ u.dev.survey.frames.head?, i.cold = true))

/-- REF_EDGE with the counters running is stamped from its line readings by the tables of its frame; the stamp joins its
window and is the last edge, and with REF_SRC = REF_IN its phase error steers, or is kept while in holdover.
Readings of other lines change nothing. REF_WINDOW_END with SYNC as the source closes the window; else a good window
counts towards REF_PRESENT, which the fourth gives, and a bad one loses a present reference or starts the count
afresh. REF_ABSENT in the frame in which four declared periods since the last edge are over loses the reference
unless SYNC is the source; a lost reference that steered leads to holdover, source 348 and HOLDOVER. REF_RETURN in
holdover with errors measured keeps their mean for the next tick; with SYNC an offset above 2^31 is refused with
source 382. REF_WALK_END at the walk's last frame ends it, REF_PHASE then being 0 or what an ALIGN_APPLY has left.
Otherwise nothing changes. Where this says more than the rules, it is the model's choice: log 3, 17, 47, 49 and 56.
(R64, R120, R121, R122, R123, R124, R125, R126, R141) -/
def Obligations.ReferenceEventsAct : Prop :=
  ∀ (s : State) (codes : List LineCode),
    let d := s.dev
    let t := d.tb
    let run := t.running = true
    let w := windowGood t.windowEdges.reverse t.cfg.period = true
    let missing := ∀ e, t.lastEdge = some e → e + 4 * t.cfg.period < d.frameEnd * 4096
    let returns := t.holdover = true ∧ t.refPresent = true ∧ t.returnErrors ≠ [] ∧ t.returnDue = none
    let mean := roundDiv (sumI t.returnErrors) t.returnErrors.length
    let lines := codes.map LineCode.line
    let before := lines = activeLines (shadowLine t.before)
    (lines = activeLines (shadowLine t.frame) ∨ before → t.pathStamp 0 codes = some (meanTime (assemble (codes.map fun c =>
      (c.count : Int) * 65536 - ((t.paths.getD 0 []).getD c.line Line.reset).lut (decide before) c.tap)).used).toNat) ∧
    (¬run → Becomes (.refEdge codes) s s ∧ Becomes .refWindowEnd s s ∧ Becomes .refAbsent s s) ∧
    (t.pathStamp 0 codes = none → Becomes (.refEdge codes) s s) ∧
    (run → ∀ stamp, t.pathStamp 0 codes = some stamp →
      let joined := { t with windowEdges := stamp :: t.windowEdges, lastEdge := some stamp }
      Leads (.refEdge codes) s (d.onTb fun _ => if t.cfg.refSrc = 1 then
        joined.phase (toGrid stamp t.cfg.period) (toGrid (stamp - t.refPhase) t.cfg.period) else joined)) ∧
    (run → t.cfg.refSrc = 2 → Leads .refWindowEnd s (d.onTb TimeBase.lockWindow)) ∧
    (run → t.cfg.refSrc ≠ 2 → w → Leads .refWindowEnd s (d.onTb fun u =>
      let x := { u with goodWindows := min 4 (u.goodWindows + 1) }
      (if 3 ≤ u.goodWindows then x.present else x).lockWindow)) ∧
    (run → t.cfg.refSrc ≠ 2 → ¬w → Leads .refWindowEnd s ((if t.refPresent = true then d.loseRef
      else d.onTb fun u => { u with goodWindows := 0 }).onTb TimeBase.lockWindow)) ∧
    (t.cfg.refSrc = 2 ∨ ¬missing → Becomes .refAbsent s s) ∧
    (run → t.cfg.refSrc ≠ 2 → missing → Leads .refAbsent s d.loseRef) ∧
    (d.loseRef.tb.refPresent = false ∧ (t.steering = true → d.loseRef.tb.holdover = true ∧ d.loseRef.tb.refLocked = false ∧
      d.loseRef.gs.flags.getLsbD flagHoldover = true)) ∧
    (¬returns → Becomes .refReturn s s) ∧
    (returns → t.cfg.refSrc = 2 → 2 ^ 31 < mean.natAbs → Leads .refReturn s
      ((d.onTb fun u => { u with returnErrors := [] }).pulse 382)) ∧
    (returns → t.cfg.refSrc ≠ 2 ∨ mean.natAbs ≤ 2 ^ 31 → Leads .refReturn s
      (d.onTb fun u => { u with returnDue := some mean, returnErrors := [] })) ∧
    (∀ x, t.walk = some x → x.from_ + x.total ≤ t.frame → Leads .refWalkEnd s
      (d.onTb fun u => { u with walk := none, walking := false, refPhase := x.rest })) ∧
    ((∀ x, t.walk = some x → t.frame < x.from_ + x.total) → Becomes .refWalkEnd s s)

/-- A marker that the SYNC_IN path stamps at a running member gives the residual where it is valid, and is what the
probes of a measurement are launched after; where it is aligned it names the move of a waiting ALIGN_APPLY; one that
breaks the alignment is remembered for the next tick. A probe that the SYNC_OUT path stamps is echoed in the turned
part of the frame. An echo counts within 256 coarse cycles of the last probe launched before it, as the first of
that probe. ALIGN_MEASURE_DONE ends a measurement that is over: with fewer than half the echoes it fails with
E_LINK, else the delay is kept and answered. ALIGN_APPLY_TIMEOUT after 256 frames fails the command with E_LINK.
Otherwise nothing changes. Where this says more than the rules, it is the model's choice: log 3, 56 and 165. (R139,
R140, R141, R143, R333) -/
def Obligations.AlignEventsAct : Prop :=
  ∀ (s : State) (b : BitVec 152) (codes cs : List LineCode) (c0 : LineCode),
    let d := s.dev
    let t := d.tb
    let a := t.align
    let member := t.running = true ∧ a.armed = true ∧ a.role = true
    let valid := markerValid b t.k = true
    (¬member ∨ t.pathStamp 1 codes = none → Becomes (.syncMarker b codes) s s) ∧
    (member → ∀ arrival, t.pathStamp 1 codes = some arrival → ∃ u, exec (.syncMarker b codes) s = .next u ∧
      let err := (arrival : Int) - (markerCount b * 4096 : Nat) - a.linkDelay
      u.dev.tb.align.markerSeen = true ∧
      (valid → u.dev.tb.align.residual = err) ∧ (¬valid → u.dev.tb.align.residual = a.residual) ∧
      (valid → b.getLsbD 129 = true → ∀ x, a.apply = some x → u.dev.tb.align.apply = none ∧
        u.dev.tb.align.move = some { tick := d.nextTick, delta := err, upFrame := fld b 119 80, upCount := markerCount b }) ∧
      (¬valid ∨ b.getLsbD 129 = false ∨ a.apply = none → u.dev.tb.align.move = a.move ∧ u.dev.tb.align.apply = a.apply) ∧
      (u.dev.tb.align.misaligned = (a.misaligned || (t.syncAligned && t.breaks b err))) ∧
      (valid → ∀ m, a.measure = some m →
        let n := min (probesPerFrame t.k) (m.wanted - m.sent)
        u.dev.tb.align.measure = some
          { m with sent := m.sent + n, launch := (arrival / 4096 + 2 ^ (t.k - 2) + 128) * 4096, probes := n, echoed := 0 }) ∧
      (¬valid → u.dev.tb.align.measure = a.measure)) ∧
    (let echoes := fun (stamp : Nat) => t.running = true ∧ t.turned stamp = true
     (∀ stamp, t.pathStamp 2 codes = some stamp → echoes stamp →
       Leads (.syncProbeReceived codes) s (d.onAlign fun x => { x with lastEcho := stamp + 262144 })) ∧
     ((∀ stamp, t.pathStamp 2 codes = some stamp → ¬echoes stamp) → Becomes (.syncProbeReceived codes) s s)) ∧
    (a.measure = none ∨ t.pathStamp 1 (c0 :: cs) = none → Becomes (.probeEcho c0 cs) s s) ∧
    (a.measure = none → Becomes .alignMeasureDone s s) ∧
    (∀ m, a.measure = some m →
      (∀ arrival, t.pathStamp 1 (c0 :: cs) = some arrival →
        let j := (arrival - m.launch - 1) / 1048576
        let counts := m.launch < arrival ∧ j < m.probes ∧ m.echoed ≤ j
        (¬counts → Becomes (.probeEcho c0 cs) s s) ∧
        (counts →
          let back := (arrival : Int) - (m.launch + j * 1048576 : Nat)
          let k := { m with returned := m.returned + 1, sum := m.sum + back, echoed := j + 1 }
          0 < back ∧ back ≤ 256 * 4096 ∧
            Leads (.probeEcho c0 cs) s ((d.onAlign fun x => { x with measure := some k }).progress m.slot
              (1000 * k.returned / m.wanted)))) ∧
      (m.ended t.k t.frame = false → Becomes .alignMeasureDone s s) ∧
      (m.ended t.k t.frame = true → 2 * m.returned < m.wanted → Leads .alignMeasureDone s
        ((d.onAlign fun x => { x with measure := none }).reply m.slot (.fail (failPlain eLink)))) ∧
      (m.ended t.k t.frame = true → m.wanted ≤ 2 * m.returned → Leads .alignMeasureDone s
        ((d.onAlign fun x => { x with measure := none, measured := true, linkDelay := m.delay }).reply m.slot
          (.ok (wordsT72 m.delay ++ [w36 m.returned, w36 m.sent]))))) ∧
    (∀ x, a.apply = some x → x.2 + 256 ≤ t.frame → Leads .alignApplyTimeout s
      ((d.onAlign fun y => { y with apply := none }).reply x.1 (.fail (failPlain eLink)))) ∧
    ((∀ x, a.apply = some x → t.frame < x.2 + 256) → Becomes .alignApplyTimeout s s)

/-- FRAME_TICK in PERST_N or before the counters run changes nothing. Otherwise, with no move of ALIGN_APPLY due, it
completes: the next frame is in progress, its number kept unwrapped; each channel's dealing order starts anew and it
has a record of the frame; the transition that was due, if any, and no other has left the queue of transitions:
START opens the lead-in frame of a run, and enters SURVEYING as RESUME does, HOLD enters HOLD, STOP ends the run,
and it and a disarm enter READY, ARM enters ARMED. No deferred effect that was due still waits, and outside BOOT the
due ones apply in the order of acceptance, a later one of LOAD_SETTINGS, SET_POLICY, SET_CAL_POLICY and STEP_BEARING
working on what an earlier one has left: so stand STRICT, TEMP_STEP and SLEW, the staged settings of the outputs,
the coefficient sets and the masks. TB_WARM is what the last evaluation decided unless OCXO_WARM fell; and with no
return due k is the pending one if the tick's count is a multiple of its length, else as it was. At the tick of a
reference return, if no wrap would fall strictly inside the frame that a STEP moves, HOLDOVER clears, REF_RETURNED
is set with source 349, and the policy acts: ABSORB keeps the offset as REF_PHASE, SLEW walks it to 0 over J frames
that carry REF_STEP, STEP loads the nominal count less the offset's whole cycles; else the return waits. At the tick
of an ALIGN_APPLY SYNC_ALIGNED is set, the counters are loaded, and the frame counter is loaded so that the next
tick, at the first later count with k low bits zero, has the upstream number. Where this says more than the rules,
it is the model's choice: log 3, 58 and 120. (R18, R22, R59, R118, R125, R126, R127, R141, R176, R177, R297, R312) -/
def Obligations.TicksApplyWhatWaits : Prop :=
  ∀ (s : State) (x : TickInputs),
    let d := s.dev
    let n := d.nextTick
    let on := s.watch.perstN = true ∧ d.tb.running = true
    (¬on → Becomes (.frameTick x) s s) ∧
    (on → d.tb.align.move = none → ∃ t, exec (.frameTick x) s = .next t ∧
      t.dev.tb.frame = n ∧ t.dev.tb.running = true ∧
      (∀ y ∈ t.dev.chans, y.deal = 0 ∧ ∃ r ∈ y.frames.head?, r.frame = n) ∧
      (t.dev.gs.transitions = match d.gs.transitions with
        | y :: rest => if y.1 ≤ n then rest else y :: rest
        | [] => []) ∧
      (∀ y, d.gs.transitions.head? = some y → y.1 ≤ n →
        (y.2 = .start → t.dev.survey.inRun = true ∧ t.dev.survey.leadIn = some n) ∧
        (y.2 = .stop → t.dev.survey.inRun = false) ∧
        (d.cal.run = none → d.fw.relock = false → d.gs.op ≠ .updating → d.gs.op ≠ .boot → t.dev.gs.op = match y.2 with
          | .start => .surveying
          | .hold => .hold
          | .resume => .surveying
          | .stop => .ready
          | .arm => .armed
          | .disarm => .ready)) ∧
      (s.boot.running = false →
        let due := d.fw.deferred.filter fun e => decide (e.tick ≤ n)
        t.dev.gs.strict = due.foldl (fun v e => match e.effect with
          | .policy p => p
          | .loadSettings _ p _ => p.strict
          | _ => v) d.gs.strict ∧
        (t.dev.cal.tempStep, t.dev.cal.slewGr) = due.foldl (fun v e => match e.effect with
          | .calPolicy a b => (a, b)
          | .loadSettings _ p _ => (p.tempStep, p.slewGr)
          | _ => v) (d.cal.tempStep, d.cal.slewGr) ∧
        t.dev.tb.clkStaged = due.foldl (fun v e => match e.effect with
          | .stageBearing o b => v.modify o fun c => c.bearing b
          | .loadSettings _ p _ => p.clkStaged
          | _ => v) d.tb.clkStaged ∧
        t.dev.survey.coefSets = due.foldl (fun v e => match e.effect with
          | .coefSet i c => v.modify i fun l => newVersion l n c
          | _ => v) d.survey.coefSets ∧
        t.dev.survey.masks = due.foldl (fun v e => match e.effect with
          | .mask i m => v.modify i fun l => newVersion l n m
          | _ => v) d.survey.masks) ∧
      (∀ e ∈ t.dev.fw.deferred, n < e.tick) ∧
      t.dev.tb.warm = (d.tb.warmNext && !d.tb.ocxoFell) ∧
      (d.tb.returnDue = none → t.dev.tb.k = match d.tb.pendingK with
        | some p => if d.tb.nominal n % 2 ^ p.k = 0 then p.k else d.tb.k
        | none => d.tb.k)) ∧
    (let plain := d.fw.deferred = [] ∧ d.tb.pendingK = none ∧ s.boot.running = false
     let c := d.tb.nominal n
     let u := s.frameTick x
     let v := u.dev.tb
     (on → d.tb.align.move = none → plain → (d.tb.cfg.refSrc ≠ 2 ∨ d.tb.align.markerSeen = true) →
       ∀ delta, d.tb.returnDue = some delta →
       let dc := roundDiv delta 4096
       let j := walkFrames delta d.tb.cfg.slewRate d.tb.k
       let steps := d.tb.cfg.jump ≠ 0 ∧ d.tb.cfg.jump ≠ 1
       let waits := steps ∧ ((c : Int) - dc) / 2 ^ 48 < (c : Int) / 2 ^ 48
       let marked := ∀ i ∈ u.dev.survey.frames.head?, i.refStep = true
       exec (.frameTick x) s = .next u.settle ∧
       (waits → v.returnDue = some delta ∧ v.holdover = d.tb.holdover ∧ v.tickCount = c) ∧
       (¬waits → v.returnDue = none ∧ v.holdover = false ∧ u.dev.gs.flags.getLsbD flagRefReturned = true ∧
         Signal.pulse 349 ∈ u.dev.signals ∧
         (d.tb.cfg.jump = 0 → v.refPhase = delta ∧ v.walk = none ∧ v.tickCount = c) ∧
         (d.tb.cfg.jump = 1 → j = 0 → v.refPhase = 0 ∧ v.walk = none ∧ v.tickCount = c) ∧
         (d.tb.cfg.jump = 1 → j ≠ 0 → v.refPhase = delta ∧ v.walking = true ∧ v.tickCount = c ∧ marked ∧
           ∃ w, v.walk = some w ∧ w.from_ = n ∧ w.total = j ∧ w.delta = delta ∧ w.rest = 0) ∧
         (steps → v.refPhase = 0 ∧ v.walk = none ∧ v.tickCount = ((c : Int) - dc).toNat ∧
           v.coarse = BitVec.ofNat 48 v.tickCount ∧ v.epoch = BitVec.ofNat 16 (v.tickCount / 2 ^ 48) ∧ marked))) ∧
     (on → ∀ m, d.tb.align.move = some m →
       exec (.frameTick x) s = .next u.settle ∧ v.running = true ∧ v.align.move = none ∧ v.syncAligned = true ∧
       (∀ y ∈ u.dev.chans, y.deal = 0 ∧ ∃ r ∈ y.frames.head?, r.frame = v.frame) ∧
       n < v.anchorFrame ∧ v.frame + 1 = v.anchorFrame ∧ v.nominal (v.frame + 1) = v.anchorCount ∧
       v.tickCount < v.anchorCount ∧ v.anchorCount ≤ v.tickCount + 2 ^ v.anchorK ∧ v.anchorCount % 2 ^ v.anchorK = 0 ∧
       ((v.anchorFrame % 2 ^ 40 : Nat) : Int) =
         ((m.upFrame : Int) + ((v.anchorCount : Int) - m.upCount) / (2 ^ v.anchorK : Nat)) % (2 ^ 40 : Nat) ∧
       (plain → d.tb.returnDue = none → v.anchorK = d.tb.k ∧ v.tickCount = ((c : Int) - roundDiv m.delta 4096).toNat ∧
         v.coarse = BitVec.ofNat 48 v.tickCount ∧ v.epoch = BitVec.ofNat 16 (v.tickCount / 2 ^ 48) ∧
         u.dev.survey.runLog.getLast? = some ([word [(35, 32, 7), (31, 0, d.tb.k * 65536 + v.anchorCount / 2 ^ 48 % 65536)],
           w36 v.frame] ++ wordsT72 (v.anchorCount % 2 ^ 48 : Nat)))))

/-- DIGEST_CLOSE closes the oldest frame of a channel that is over and drained, giving it its digest; where there is
none, or the channel is parked, nothing changes. LUT_CANDIDATE_BUILT adds the hits of a lead-in frame to the line's
histogram, and forms its candidate where there were none; in a run that measures the line it gathers observations
and hits until f_c; else it forms the candidate of the line that was shadow in the frame before, unless a CALIBRATE
measured that frame, and changes no other line. With the stamp path down or the counters stopped it changes no line.
The lines of REF_IN, SYNC_IN and SYNC_OUT take theirs in their turn. AUTO_LEVEL_STEP_END with no search, before its
dwell or after a cancel changes nothing; step 28 ends the search and answers each channel, and an earlier one starts
the next step. AUTO_LEVEL_TRACK_CYCLE at the end of a cycle defers a new threshold for each tracked channel whose
level moved more than 16 codes, and else changes nothing. Where this says more than the rules, it is the model's
choice: log 3, 40, 74, 143 and 166. (R73, R86, R92, R104, R106, R173, R174, R175, R179, R180, R181, R182) -/
def Obligations.WorkOfAFrameActs : Prop :=
  ∀ (s : State) (ch line : Nat) (hits : List HitRun) (obs : List Observation),
    let d := s.dev
    let x := d.chan ch
    let f := d.tb.frame
    (d.digestDue x = none → Becomes (.digestClose ch) s s) ∧
    (∀ r i, d.digestDue x = some r → d.info r.frame = some i →
      (x.parked = true ∨ d.drained ch r.frame = false → Becomes (.digestClose ch) s s) ∧
      (x.parked = false → d.drained ch r.frame = true → Leads (.digestClose ch) s
        (let q := d.jitterBlock ch i
         let g := d.digest ch i r
         d.updChan ch fun y => y.updRec r.frame fun z =>
           { z with closed := true, saturated := g.2, digest := g.1, jitter := q.1, hist := q.2,
                    ncoStep := d.ncoStep ch i }))) ∧
    (∀ r, d.digestDue x = some r → d.info r.frame = none → Becomes (.digestClose ch) s s) ∧
    (let e := d.when (d.gs.op != .boot || s.boot.loaded) Dev.startUpRun
     let on := e.tb.running = true ∧ e.partUp partStamp = true
     let i := Instr.lutCandidateBuilt ch line hits obs
     let r := e.cal.run.filter fun r => r.measures ch f
     let past := (r.any fun r => r.measures ch (f - 1) && r.fc.isSome) = true
     let taking := (r.any fun r => r.measures ch (f - 1) && r.fc.isNone) = true
     let upd := fun (g : Line → Line) => Leads i s (e.updChan ch fun y => y.updLine line g)
     let b := e.tb.before
     let shadow := line = shadowLine b ∧ e.cal.measuredIn ch b = false
     let temp := ((e.chan ch).record b).temp
     (ch < 96 → ¬on → Leads i s e) ∧
     (ch < 96 → on → e.inLeadIn = true → hits ≠ [] → upd fun z => z.addFrame hits) ∧
     (ch < 96 → on → e.inLeadIn = true → hits = [] → upd fun z =>
       { z with cand := some (formCandidate z.complete obs (some z.p) (e.lockedIn f) f (f + 1) 1 0 true) }) ∧
     (ch < 96 → on → e.inLeadIn = false → past → Leads i s e) ∧
     (ch < 96 → on → e.inLeadIn = false → taking → upd fun z =>
       let w := { z with obs := z.obs ++ obs }
       if w.runDone then w else w.addFrame hits) ∧
     (ch < 96 → on → e.inLeadIn = false → ¬past → ¬taking → ¬shadow → Leads i s e) ∧
     (ch < 96 → on → e.inLeadIn = false → ¬past → ¬taking → shadow → upd fun z =>
       let w := if r.isSome then z else z.addFrame hits
       { w with cand := some (formCandidate w.complete obs (some z.p) (e.lockedIn b) b (f + 1) 0 temp
                  (z.due temp e.cal.tempStep)) }) ∧
     let turn := line = shadowLine d.tb.before
     (96 ≤ ch → d.tb.running = true → turn → Leads i s (d.onTb fun t =>
       { t with paths := t.paths.modify (ch - 96) fun ls => ls.modify line fun y =>
         let z := y.addFrame hits
         { z with cand := some (formCandidate z.complete obs (some y.p) (d.lockedIn d.tb.before) d.tb.before (f + 1) 0 0 true) } })) ∧
     (96 ≤ ch → d.tb.running = false ∨ ¬turn → Becomes i s s)) ∧
    (d.fw.levels = none → Becomes .autoLevelStepEnd s s) ∧
    (∀ r, d.fw.levels = some r →
      let chans := r.chans.map fun l => if l.skipped then l else l.found r.step (d.chan l.ch).b
      let late := r.step = 0 ∨ f < r.stepFrom + r.dwell ∨ r.cancelled = true
      (late → Becomes .autoLevelStepEnd s s) ∧
      (¬late → r.step < 28 → Leads .autoLevelStepEnd s
        ((d.levelStep { r with chans := chans } (r.step + 1) d.tb.tickCount).reopenAll (r.chans.map LevelSearch.ch))) ∧
      (¬late → 28 ≤ r.step → ∃ t, exec .autoLevelStepEnd s = .next t ∧ t.dev.fw.levels = none ∧
        (r.slot < d.host.slots.length → (t.dev.slot r.slot).st = .done ∧ (t.dev.slot r.slot).error = 0))) ∧
    (f % 4 ≠ 0 → Becomes .autoLevelTrackCycle s s) ∧
    (f % 4 = 0 → ∃ t, exec .autoLevelTrackCycle s = .next t ∧ t.dev.chans = d.chans ∧ t.dev.survey = d.survey ∧
      t.dev.fw.deferred = d.fw.deferred ++ (List.range 96).filterMap fun c =>
        match d.tracked c, (d.chan c).levels with
        | true, some l =>
          let thr := thrBetween l.1 l.2 (d.chan c).levelPct
          if 16 < ((thr : Int) - (d.chan c).cfg.thrA).natAbs then some ⟨d.nextTick, 0, .thrA c thr none true⟩ else none
        | _, _ => none)

/-- TRIG_EDGE to a new level on a line that is no output gives the line that level, and source 374 + l follows; on an
input it also joins the edges of the frame that holds its coarse cycle, and no other frame's. TRIG_OUT_ACTIVE with a
firing due on an output takes it, ends the pulse its length later, and drives the line active. TRIG_OUT_INACTIVE
with a pulse under way on an output ends it and drives the line inactive. Elsewhere each of the three changes
nothing. Where this says more than the rules, it is the model's choice: log 3 and 75. (R13, R153, R218, R220, R221) -/
def Obligations.TriggerLinesAct : Prop :=
  ∀ (s : State) (l now : Nat) (high : Bool),
    let d := s.dev
    let t := d.trigLine l
    let drive := fun (e : Dev) (on : Bool) => (e.updTrig l fun y => { y with level := on }).level (374 + l) on
    (t.dir = lineOut ∨ t.level = high → Becomes (.trigEdge l high now) s s) ∧
    (t.dir ≠ lineOut → t.level ≠ high → t.dir ≠ lineIn → Leads (.trigEdge l high now) s (drive d high)) ∧
    (t.dir = lineIn → t.level ≠ high → Leads (.trigEdge l high now) s ((drive d high).onSurvey fun y =>
      { y with frames := y.frames.map fun i =>
          if i.frame = d.frameOfCc now then { i with trig := i.trig ++ [(l, high)] } else i })) ∧
    (t.dir ≠ lineOut ∨ t.due = [] → Becomes (.trigOutActive l) s s) ∧
    (t.dir = lineOut → ∀ x rest, t.due = x :: rest → Leads (.trigOutActive l) s
      (drive (d.updTrig l fun y => { y with due := rest, ends := some (x + y.pulse) }) (!t.activeLow))) ∧
    (t.dir ≠ lineOut ∨ t.ends = none → Becomes (.trigOutInactive l) s s) ∧
    (t.dir = lineOut → t.ends ≠ none → Leads (.trigOutInactive l) s
      (drive (d.updTrig l fun y => { y with ends := none }) t.activeLow))

/-- TRAVERSE_COMMIT of a traverse with a channel frame due, no edge of it on its way to a stamp, writes it, and what
waited for it is decided; with none due, or an edge on its way, nothing changes. A channel frame is a header of
KIND, CHANNEL and the frame number, the first records in stamp order up to quota and room, and a trailer with QUOTA,
ROOM, LOST and RECORDS; it goes into the ring from WC on, which rises by its words; a frame with no stamps, no store
or, under HALT, no room for 3 words is skipped and counted. CONTOUR_DECAY of a PERSISTENCE map whose decay is due
takes each bin v to v − (v >> DECAY_D), where maps live; else nothing changes. LEVEL_EYE_STEP of a map of another
kind changes nothing; of a LEVEL_EYE map it sets comparator B's threshold. RENDER_START with CHART down or nothing
due starts nothing; with SHED it is skipped and counted; with CAPTURE down it is spent; else its pixels are taken
from the bins as they stand. RENDER_DONE of a render under way ends it: with CHART and CAPTURE up the image stands
in its buffer, which AUTO_COMMIT commits; with none under way nothing changes. Where this says more than the rules,
it is the model's choice: log 3, 78, 79, 81, 83 and 84. (R76, R226, R229, R230, R231, R234, R235, R247, R249, R251,
R253, R266) -/
def Obligations.CaptureWorkActs : Prop :=
  ∀ (s : State) (n : Nat),
    let d := s.dev
    let f := d.tb.frame
    ((∀ t, d.traverse n = some t → d.commitDue t = none) → Becomes (.traverseCommit n) s s) ∧
    (∀ t i, d.traverse n = some t → d.commitDue t = some i → i.noStamps = true ∨ d.drained t.ch i.frame = true →
      Leads (.traverseCommit n) s (((d.writeFrame t i).freezeDue n).resizeDue n)) ∧
    (∀ t i, d.traverse n = some t → d.commitDue t = some i → i.noStamps = false → d.drained t.ch i.frame = false →
      Becomes (.traverseCommit n) s s) ∧
    (∀ (t : Traverse) (i : FrameInfo),
      let recs := d.tvRecords t i
      let w := if t.kind = 2 then 2 else 1
      let quota := t.rate * 2 ^ i.k / 2500 / w
      let room := if t.halt = true then (t.length - (t.wc - t.rcOf i.frame) - 3) / w else recs.length
      let k := min recs.length (min quota room)
      let q := d.channelFrame t i
      let u := d.writeFrame t i
      let r := (d.chan t.ch).record i.frame
      q.1.length = 3 + k * w ∧
      (∀ x, q.1[0]? = some x → fld x 35 32 = t.kind % 16 ∧ fld x 31 25 = t.ch % 128 ∧ fld x 24 0 = 0) ∧
      q.1[1]? = some (w36 i.frame) ∧ (q.1.drop 2).take (k * w) = (recs.take k).flatten ∧
      (∀ x, q.1.getLast? = some x → fld x 35 32 = 0xE ∧ fld x 28 0 = k % 2 ^ 29 ∧
        (bit x 31 = true ↔ quota < recs.length ∧ quota ≤ room) ∧ (bit x 30 = true ↔ room < recs.length ∧ room ≤ quota) ∧
        (bit x 29 = true ↔ r.lostFifo + r.lostCheck ≠ 0)) ∧
      (t.kind = 1 → recs = r.stamps.map fun y => [y.compact (y.time / 4096 % 2 ^ i.k)]) ∧
      (t.kind = 2 → recs = r.stamps.map Stamp.words) ∧
      (∀ y ∈ r.stamps, ∀ o, fld (y.compact o) 35 12 = o % 2 ^ 24 ∧ fld (y.compact o) 11 1 = y.time % 4096 / 2 ∧
        bit (y.compact o) 0 = y.rising) ∧
      let skips := i.noStamps = true ∨ d.partUp partCapture = false ∨ (t.halt = true ∧ t.room i.frame < 3)
      (d.traverse n = some t → skips → u.cap.mem = d.cap.mem ∧ ∃ v, u.traverse n = some v ∧ v.wc = t.wc ∧
        v.skipped = clampU 36 (t.skipped + 1) ∧ v.next = i.frame + 1) ∧
      (d.traverse n = some t → ¬skips → (∃ v, u.traverse n = some v ∧ v.wc = t.wc + q.1.length ∧ v.committed = i.frame ∧
          v.skipped = t.skipped ∧ v.next = i.frame + 1) ∧
        (Mem.wf d.cap.mem → t.c0 ≤ t.wc → q.1.length ≤ t.length → ∀ j, j < q.1.length →
          q.1[j]? = some (Mem.read u.cap.mem (t.base + (t.wc - t.c0 + j) % t.length))))) ∧
    (∀ (base shift a : Nat), Mem.wf d.cap.mem →
      let v := (Mem.read d.cap.mem a).toNat
      Mem.read (decayBins d.cap.mem base shift) a =
        if base ≤ a ∧ a < base + 2 ^ 20 then w36 (v - v / 2 ^ shift) else Mem.read d.cap.mem a) ∧
    ((∀ m, d.map_ n = some m → m.decayDue (f - 1) = none) ∨ d.mapsLive = false ∨ f = 0 → Becomes (.contourDecay n) s s) ∧
    (∀ m t, d.map_ n = some m → m.decayDue (f - 1) = some t → d.mapsLive = true → 1 ≤ f →
      Leads (.contourDecay n) s (((d.onCap fun c => c.put (decayBins c.mem m.base m.cfg.decayD) (span m.base binWords)).updMap m.num
        fun x => { x with lastStep := t }).writeStatus m.num)) ∧
    ((∀ m, d.map_ n = some m → m.cfg.kind ≠ mapEye) → Becomes (.levelEyeStep n) s s) ∧
    (∀ m, d.map_ n = some m → m.cfg.kind = mapEye → ∃ t, exec (.levelEyeStep n) s = .next t ∧
      (m.cfg.chA < d.chans.length → (t.dev.chan m.cfg.chA).cfg.thrB =
        if d.gs.op = .surveying then (m.cfg.code (m.sweepRow f)).toNat else m.cfg.code0) ∧
      (∀ c, c ≠ m.cfg.chA → t.dev.chan c = d.chan c) ∧ t.dev.cap = d.cap) ∧
    (let e := d.onChart fun c => c.replaceRender n f
     let cur := e.cap.chart.renders.find? fun r => r.buffer == n && r.started
     let go := fun (r : Render) => cur = some r ∧ r.due = f ∧ e.partUp partChart = true
     ((∀ r, ¬go r) → Leads (.renderStart n) s e) ∧
     (∀ r, go r → e.cap.chart.shed = true → Leads (.renderStart n) s
       ((e.updRender n fun x => { x with due := f + x.period }).onChart fun c => { c with skippedRenders := c.skippedRenders + 1 })) ∧
     (∀ r, go r → e.cap.chart.shed = false → e.map_ r.map = none → Leads (.renderStart n) s e) ∧
     (∀ r m, go r → e.cap.chart.shed = false → e.map_ r.map = some m → e.partUp partCapture = false → Leads (.renderStart n) s
       ((e.updRender n fun x => { x with due := f + x.period }).onChart fun c => c.endRender n)) ∧
     (∀ r m, go r → e.cap.chart.shed = false → e.map_ r.map = some m → e.partUp partCapture = true →
       Leads (.renderStart n) s (e.updRender n fun x =>
       { x with due := f + x.period, busy := some (if x.useAlt then x.alt.getD n else n, e.renderPixels r m),
                useAlt := !x.useAlt && x.alt.isSome }))) ∧
    (let cur := d.cap.chart.renders.find? fun r => r.buffer == n && r.started
     ((∀ r, cur = some r → r.busy = none) → Becomes (.renderDone n) s s) ∧
     (∀ r target px b, cur = some r → r.busy = some (target, px) → d.buffer target = some b → d.partUp partChart = true →
       d.partUp partCapture = true → r.autoCommit = false → ∃ t, exec (.renderDone n) s = .next t ∧
         t.dev.cap.mem = px.foldl (fun m p => putPixel m b.format (b.base + b.stride * p.2.1) p.1 p.2.2) d.cap.mem ∧
         t.dev.cap.chart.slot = d.cap.chart.slot ∧ t.dev.cap.traverses = d.cap.traverses ∧ t.dev.cap.maps = d.cap.maps) ∧
     (∀ r target px b, cur = some r → r.busy = some (target, px) → d.buffer target = some b → d.partUp partChart = true →
       d.partUp partCapture = true → r.autoCommit = true → ∃ t, exec (.renderDone n) s = .next t ∧
         let c := d.cap.chart
         let a : FbAddr := { addr := b.base, stride := b.stride, format := b.format }
         let ok := c.addrOk c.commitMode a = true
         let now := c.mode = 0 ∧ c.commitMode = 0
         t.dev.cap.mem = px.foldl (fun m p => putPixel m b.format (b.base + b.stride * p.2.1) p.1 p.2.2) d.cap.mem ∧
         (¬ok → t.dev.cap.chart.refused = true ∧ t.dev.cap.chart.slot = c.slot ∧ t.dev.cap.chart.live = c.live) ∧
         (ok → t.dev.cap.chart.refused = false) ∧
         (ok → ¬now → t.dev.cap.chart.slot = some a ∧ t.dev.cap.chart.live = c.live) ∧
         (ok → now → t.dev.cap.chart.slot = none ∧ t.dev.cap.chart.live = a ∧ t.dev.cap.chart.commitFrame = c.frame) ∧
         t.dev.cap.traverses = d.cap.traverses ∧ t.dev.cap.maps = d.cap.maps))

/-- CHART_FRAME_START with CHART up, the Chart PLL not re-locking and a mode in force opens the next frame, its number
one higher modulo 2^32, its line 0; in a mode change it leaves the old mode, opens the two black frames, or shows
the new mode and finishes the command; otherwise, or before a change's training is over, it changes nothing.
CHART_LATCH_POINT makes the pending address live, but one committed in the last line waits for the next frame; in
the second black frame the staged address becomes live. CHART_UNDERRUN of a line that is fetched counts, tells the
line, and sets UNDERRUN with source 344. HPD_LOSS stops video and the link; HPD_RETURN takes the sink and retrains,
to the mode in force, or during the training of a mode change to its mode, with the PLL re-locking where the rate is
another; where no configuration fits it goes to OFF and a mode change fails. HPD_IRQ with a bad link stops video.
LINK_TRAINING_DONE takes the link up, or the next configuration, and with none left goes to OFF and fails a mode
change. Otherwise nothing changes. Where this says more than the rules, it is the model's choice: log 3, 82, 86 and
147. (R115, R135, R257, R258, R260, R261, R262, R263, R264, R266, R298, R329) -/
def Obligations.ChartPortActs : Prop :=
  ∀ (s : State) (line first : Nat) (sink : Sink) (good : Bool),
    let d := s.dev
    let c := d.cap.chart
    let up := d.partUp partChart = true
    let relocks := d.tb.chart.reacquiring = true
    let runs := c.fetches = true ∧ up ∧ ¬relocks ∧ line < (timingOf c.mode).v
    let trains := ∃ m, c.change = some m ∧ m.step = 1
    let stands := relocks ∨ c.mode = 0 ∨ trains
    let left := fun (mode rate lanes : Nat) => (linkConfigs mode c.maxRate c.maxLanes c.sink).filter fun x =>
      decide (rate < x.1 ∨ rate = x.1 ∧ lanes < x.2)
    let fails := fun (e : Dev) (m : ModeChange) => e.chartOff.finishChange m (.fail (failPlain eLink))
    let serves := fun (e : Dev) (x : Option ModeChange) (l : List (Nat × Nat)) => match l.head? with
      | some k => (e.onChart fun y =>
          { y with rate := k.1, lanes := k.2, linkUp := false, scanning := false
                   change := x.map fun m => if 2 ≤ m.step then { m with rate := k.1, lanes := k.2 } else m }).when
          (c.rate != k.1) Dev.relockChart
      | none => match x with
        | some m => fails e m
        | none => e.chartOff
    let changes := fun (e : Dev) (m : ModeChange) (l : List (Nat × Nat)) => match l.head? with
      | some k =>
        let x := { m with rate := k.1, lanes := k.2, needTrain := true, needLock := m.needLock || m.rate != k.1 }
        (e.onChart fun y => { y with change := some x }).when (m.rate != k.1) Dev.relockChart
      | none => fails e m
    (d.chartOff.cap.chart = c.off ∧ c.off.mode = 0 ∧ c.off.linkUp = false ∧ c.off.scanning = false ∧ c.off.change = none) ∧
    (¬up ∨ relocks ∨ (c.change = none ∧ c.mode = 0) → Becomes .chartFrameStart s s) ∧
    (up → ¬relocks → c.change = none → c.mode ≠ 0 → Leads .chartFrameStart s (d.onChart Chart.openFrame) ∧
      c.openFrame.frame = (c.frame + 1) % 2 ^ 32 ∧ c.openFrame.line = 0 ∧ c.openFrame.scanNow = c.scanEn ∧
      c.openFrame.pendingRects = [] ∧ c.openFrame.missing = []) ∧
    (up → ¬relocks → ∀ m, c.change = some m →
      (m.step = 0 → m.mode = 0 → Leads .chartFrameStart s (d.chartOff.finishChange m (.ok [c.off.link]))) ∧
      (m.step = 0 → m.mode ≠ 0 → Leads .chartFrameStart s ((d.startChange m).onChart Chart.openBlack).changeProgress) ∧
      (m.step = 1 → Becomes .chartFrameStart s s) ∧
      (m.step = 2 ∨ m.step = 3 → Leads .chartFrameStart s
        (d.onChart fun y => { y.openFrame with change := some { m with step := m.step + 1 } }).changeProgress) ∧
      (m.step = 4 → Leads .chartFrameStart s
        ((d.onChart fun y => { ({ y with change := none } : Chart).openFrame with
            scanning := y.linkUp && !y.shed, suspend := 2 }).finishChange m (.ok [c.link])))) ∧
    (¬up ∨ stands → Becomes .chartLatchPoint s s) ∧
    (up → ¬stands → ∃ t, exec .chartLatchPoint s = .next t ∧
      t.dev.cap.chart.line = (timingOf c.mode).v ∧ t.dev.cap.mem = d.cap.mem ∧ t.dev.cap.chart.slotLate = false ∧
      (let shows := fun (a : FbAddr) (o : Option FbAddr) (f : Nat) =>
         t.dev.cap.chart.live = a ∧ t.dev.cap.chart.slot = o ∧ t.dev.cap.chart.commitFrame = f
       let black := ∃ m, c.change = some m ∧ m.step = 4
       (black → shows c.staged none c.frame) ∧
       (¬black → c.slotLate = true → shows c.live c.slot c.commitFrame) ∧
       (¬black → c.slotLate = false → shows (c.slot.getD c.live) none (if c.slot.isSome then c.frame else c.commitFrame)))) ∧
    (runs →
      let counted := d.onChart fun y => { y with underruns := clampU 32 (y.underruns + 1), lastUnderrun := y.frame,
                                                 line := max line y.line, missing := (line, first) :: y.missing }
      Leads (.chartUnderrun line first) s ((counted.setFlag flagUnderrun).pulse 344)) ∧
    (¬runs → Becomes (.chartUnderrun line first) s s) ∧
    Leads .hpdLoss s (d.onChart fun y => { y with hpd := false, linkUp := false, scanning := false, resumeDue := false }) ∧
    (let e := d.onChart fun y => { y with hpd := true, sink := sink }
     let fit := fun (mode : Nat) => linkConfigs mode c.maxRate c.maxLanes sink
     (c.change = none → c.mode = 0 → Leads (.hpdReturn sink) s e) ∧
     (c.change = none → c.mode ≠ 0 → Leads (.hpdReturn sink) s (serves e none (fit c.mode))) ∧
     (∀ m, c.change = some m →
       (m.step = 1 → Leads (.hpdReturn sink) s (changes e m (fit m.mode))) ∧
       (2 ≤ m.step ∨ (m.step = 0 ∧ m.mode = 0) → Leads (.hpdReturn sink) s (serves e (some m) (fit c.mode))) ∧
       (m.step = 0 → m.mode ≠ 0 → Leads (.hpdReturn sink) s (match (fit m.mode).head? with
         | some k => serves e (some { m with rate := k.1, lanes := k.2 }) (fit c.mode)
         | none => fails e m)))) ∧
    (good = true ∨ c.hpd = false → Becomes (.hpdIrq good) s s) ∧
    (good = false → c.hpd = true → Leads (.hpdIrq good) s (d.onChart fun y =>
      { y with linkUp := false, scanning := false
               change := y.change.map fun m => if m.step = 1 then { m with needTrain := true } else m })) ∧
    (¬trains → c.mode = 0 ∨ c.hpd = false ∨ c.linkUp = true → Becomes (.linkTrainingDone good) s s) ∧
    (¬trains → c.mode ≠ 0 → c.hpd = true → c.linkUp = false →
      (good = true → Leads (.linkTrainingDone good) s (d.onChart fun y => { y with linkUp := true, resumeDue := !y.shed })) ∧
      (good = false → Leads (.linkTrainingDone good) s (serves d c.change (left c.mode c.rate c.lanes)))) ∧
    (∀ m, c.change = some m → m.step = 1 → m.needTrain = false → Becomes (.linkTrainingDone good) s s) ∧
    (∀ m, c.change = some m → m.step = 1 → m.needTrain = true →
      (good = true → Leads (.linkTrainingDone good) s
        (d.onChart fun y => ({ y with linkUp := true, change := some { m with needTrain := false } } : Chart).trained).changeProgress) ∧
      (good = false → Leads (.linkTrainingDone good) s (changes d m (left m.mode m.rate m.lanes))))

/-- FLASH_PROGRAM_DONE and FLASH_READ_DONE on a channel that is down change nothing, nor does a program or erase where
none is in progress; a good program ends the page that the channel has programmed longest, a failed one is made
again and its block retires; an erase ends that of a format, or of the block that waits for it. A codeword read is
counted by its quality. SCRUB_PASS on a closed journal changes nothing; else the hour moves on and passes that are
over or cancelled end. HOLDUP_MEASURED with no measurement changes nothing; else voltage and energy are kept, and a
store that waits fails with E_HOLDUP below 4,800 µJ, and else takes the bank that is not the newest valid one, with
the next SEQUENCE. The board block is written in PERST_N only, with VDD_IO present. GAZETTEER_WRITE_DONE with no job
and IMAGE_DMA_READ_DONE with no transfer change nothing; a store that ends well stands in its bank, and its slot is
DONE, or else FAILED with E_NVM; of an update a good page but the last leaves the next one, the last write makes the
slot valid, a bad one ends it with E_NVM and a cancel with E_CANCELLED. An image read for an update that verifies
makes the slot invalid and its pages wait; one that does not ends it with E_AUTH, none with E_LINK. An image read
for a host load is kept if it verifies; else the slot holds E_AUTH or E_LINK and stays POSTED. HOST_LOAD outside its
time changes nothing; in it the load starts, or its slot holds the failure. Where this says more than the rules, it
is the model's choice: log 3, 88, 89, 91, 98, 103, 104, 109, 151, 152, 153, 170 and 173. (R282, R283, R285, R290,
R356, R358, R364, R371, R372, R374, R412, R413) -/
def Obligations.FlashAndGazetteerEventsAct : Prop :=
  ∀ (s : State) (ch : Nat) (erase good : Bool) (q : ReadQuality) (found : CodewordFound) (hour block code : Nat)
    (words : List ReadQuality) (bits : BitVec 512) (image : Option Image),
    let d := s.dev
    let a := d.atlas
    let up := d.partUp (partAtlas ch) = true
    let g := s.watch.gaz
    let mine := fun (n : Nat) => a.channelOf n == ch
    let ended := fun (n : Nat) => if good then d.erased n else d.retireBlock n
    (¬up → Becomes (.flashProgramDone ch erase good) s s ∧ Becomes (.flashReadDone ch q found) s s) ∧
    (up → a.running ch = none → Becomes (.flashProgramDone ch false good) s s) ∧
    (up → ∀ x, a.running ch = some x →
      (let e := d.onAtlas fun y => y.pageDone x
       Leads (.flashProgramDone ch false true) s (e.fenceDone e.atlas.fences.length).fenceProgress.runFlash) ∧
      Leads (.flashProgramDone ch false false) s
        ((d.onAtlas fun y => if x.copy then (y.pageAgain x).restartMove x.block else y.pageAgain x).retireBlock x.block).runFlash) ∧
    (up → a.formatting = none → (a.blocks.zipIdx.find? fun x => x.1.erasing && mine x.2) = none →
      Becomes (.flashProgramDone ch true good) s s) ∧
    (up → a.formatting = none → ∀ x, (a.blocks.zipIdx.find? fun x => x.1.erasing && mine x.2) = some x →
      Leads (.flashProgramDone ch true good) s (ended x.2).runFlash) ∧
    (up → ∀ f, a.formatting = some f → f.left.find? mine = none → Becomes (.flashProgramDone ch true good) s s) ∧
    (up → ∀ f n, a.formatting = some f → f.left.find? mine = some n →
      let left := f.left.filter (· != n)
      let e := (ended n).onAtlas fun x => { x with formatting := some { f with left := left } }
      let all := a.blocks.countP fun b => !b.factory
      Leads (.flashProgramDone ch true good) s (if left = [] then e.finishFormat f.slot
        else e.progress f.slot (1000 * (all - left.length) / all))) ∧
    (up → a.opening = none → a.reads = [] → Leads (.flashReadDone ch q found) s (d.countRead ch q)) ∧
    (up → ∃ t, exec (.flashReadDone ch q found) s = .next t ∧ t.dev.atlas.codewords =
      match q with
      | .hard 0 => a.codewords
      | .hard _ => a.codewords.modify ch fun l => l.modify 0 (· + 1)
      | .retried => a.codewords.modify ch fun l => l.modify 1 (· + 1)
      | .soft => a.codewords.modify ch fun l => l.modify 2 (· + 1)
      | .uncorrectable => a.codewords.modify ch fun l => l.modify 3 (· + 1)) ∧
    (a.isOpen = false → Becomes (.scrubPass hour block words) s s) ∧
    (a.isOpen = true → ∃ t, exec (.scrubPass hour block words) s = .next t ∧ t.dev.atlas.hour = max a.hour hour ∧
      (∀ r ∈ t.dev.atlas.scrubs, r.cancelled = false ∧ r.left ≠ [])) ∧
    (s.watch.holdup = none → Becomes (.holdupMeasured code) s s) ∧
    (s.watch.holdup ≠ none → ∃ t, exec (.holdupMeasured code) s = .next t ∧ t.watch.holdup = none ∧
      t.watch.holdupResult =
        (let v := holdupMv code (boardRatio g.board)
         (v, holdupUj g.holdupC v (boardVmin g.board), g.holdupC, boardVmin g.board))) ∧
    (∀ h i version x, s.watch.holdup = some h → h.store = some (i, version, x) →
      let e := holdupUj g.holdupC (holdupMv code (boardRatio g.board)) (boardVmin g.board)
      let own := d.underWay i 0x801 = true ∧ i ∉ h.getSlots
      let valid := g.readable version
      let taken := (g.bank valid.target).map fun y => { y with magic := 0 }
      ∃ t, exec (.holdupMeasured code) s = .next t ∧
        (e < 4800 → t.watch.gaz = g ∧ (own → (t.dev.slot i).st = .failed ∧ (t.dev.slot i).error = BitVec.ofNat 8 eHoldup)) ∧
        (4800 ≤ e → ∃ slot bank, t.watch.gaz = { g.setBank valid.target taken with
            job := some (.store slot valid.target bank e) } ∧
          bank.magic = 0x5E771A0B ∧ bank.sequence = valid.nextSequence ∧ bank.gen = d.gs.gen ∧ bank.writer = version ∧
          bank.settings = x ∧ (own → slot = some i))) ∧
    (∀ k : Gazetteer, (k.target = true ↔ ∃ y, k.bankA = some y ∧ ∀ z, k.bankB = some z → z.sequence ≤ y.sequence) ∧
      k.nextSequence = max ((k.bankA.map fun y => y.sequence + 1).getD 1) ((k.bankB.map fun y => y.sequence + 1).getD 1)) ∧
    (let runs := s.watch.powered = true ∧ s.watch.railUp monitorIo = true
     let w := { s.watch with tapIr := 0x3C }
     (runs → s.watch.perstN = false → s.watch.held = false →
       Becomes (.gzBoardUpdate bits) s { s with watch := { w with gaz := { g with board := bits, boardBad := false } } }) ∧
     (runs → s.watch.perstN = true ∨ s.watch.held = true → Becomes (.gzBoardUpdate bits) s { s with watch := w }) ∧
     (¬runs → Becomes (.gzBoardUpdate bits) s s)) ∧
    (g.job = none → Becomes (.gazetteerWriteDone good) s s) ∧
    (∀ slot bankB bank energy, g.job = some (.store slot bankB bank energy) →
      Becomes (.gazetteerWriteDone true) s { s with
        watch := { s.watch with gaz := ({ g with job := none } : Gazetteer).setBank bankB (some bank) }
        dev := match slot with
          | some i => if d.underWay i 0x801 then d.reply i (.ok [w36 (b2n bankB), w36 bank.sequence, w36 energy]) else d
          | none => d } ∧
      Becomes (.gazetteerWriteDone false) s { s with
        watch := { s.watch with gaz := { g with job := none } }
        dev := match slot with
          | some i => if d.underWay i 0x801 then d.reply i (.fail (failPlain eNvm)) else d
          | none => d }) ∧
    (let idle := { g with job := none }
     let ends := fun (k : Gazetteer) (slot : Option Nat) (r : Reply) =>
       let e := d.onGs fun x => { x with op := if x.op = .updating then x.before else x.op }
       { s with watch := { s.watch with gaz := k }, boot := { s.boot with update := none, cancelled := false }
                dev := match slot with
                  | some i => if e.underWay i 0x803 then e.reply i r else e
                  | none => e }
     (∀ slot slotB i left, g.job = some (.update slot slotB i left) →
       let wrote := fun (u : State) => Becomes (.gazetteerWriteDone good) s u
       (left = 0 → wrote { s with watch := { s.watch with gaz := idle } }) ∧
       (0 < left → good = false → wrote (ends idle slot (.fail (failPlain eNvm)))) ∧
       (1 < left → good = true → s.boot.cancelled = true → wrote (ends idle slot (.fail (failPlain eCancelled)))) ∧
       (1 < left → good = true → s.boot.cancelled = false → ∃ t, exec (.gazetteerWriteDone good) s = .next t ∧
         t.watch.gaz = { g with job := some (.update slot slotB i (left - 1)) } ∧ t.boot = s.boot ∧ t.dev.gs = d.gs) ∧
       (left = 1 → good = true → wrote (ends (idle.setSlot slotB (FwSlot.written i)) slot (.ok [])))) ∧
     (∀ slot slotB len, s.boot.loading = false → s.boot.update = some (slot, slotB, len) →
       let read := fun (u : State) => Becomes (.imageDmaReadDone image) s u
       let job : Nat := ceilDiv len 4096 + 1
       (s.boot.cancelled = true → read (ends g (some slot) (.fail (failPlain eCancelled)))) ∧
       (s.boot.cancelled = false → image = none → read (ends g (some slot) (.fail (failPlain eLink)))) ∧
       (s.boot.cancelled = false → ∀ i, image = some i →
         (g.verifies i len = false → read (ends g (some slot) (.fail (failPlain eAuth)))) ∧
         (g.verifies i len = true → read { s with
           watch := { s.watch with gaz := { g.setSlot slotB (g.fwSlot slotB).spoilt with
             job := some (.update (some slot) slotB i job) } }
           boot := { s.boot with update := none } }))) ∧
     (∀ b, (g.setSlot b (g.fwSlot b).spoilt).validImage b = none)) ∧
    (s.boot.loading = true →
      let u := { s with boot := { s.boot with loading := false } }
      (image = none → Becomes (.imageDmaReadDone image) s { u with dev := d.loadFailed eLink }) ∧
      (∀ i, image = some i →
        let fits := g.verifies i ((d.cmdOf 0).f 3 18 0) = true
        (¬fits → Becomes (.imageDmaReadDone image) s { u with dev := d.loadFailed eAuth }) ∧
        (fits → Becomes (.imageDmaReadDone image) s
          { u with dev := d.progress 0 500, boot := { u.boot with hostImage := some i, loadDone := true } }))) ∧
    (∀ (i : Image) (len : Nat), g.verifies i len = true → i.bytes.length = len ∧ 1025 ≤ len ∧ len ≤ 393216 ∧
      i.field 0 4 = 0x7E5A0960 ∧ i.field 4 4 = len ∧ g.rollback ≤ i.field 12 2 ∧ ∃ key, g.keys.key (i.field 14 1) = some key ∧
        signatureValid key (sha384 (i.bytes.take 64 ++ i.bytes.drop 1024)) (i.field 64 48) (i.field 112 48) = true) ∧
    (s.boot.loading = false → s.boot.update = none → Becomes (.imageDmaReadDone image) s s) ∧
    (let due := s.awaitsLoad = true ∧ (d.slot 0).st = .posted ∧ (d.slot 0).partialWords = 0
     (¬due → Becomes .hostLoad s s) ∧
     (due → (d.cmdOf 0).loadGood = false → Leads .hostLoad s (d.loadFailed eAuth)) ∧
     (due → (d.cmdOf 0).loadGood = true → d.canRequest = false → Leads .hostLoad s (d.loadFailed eLink)) ∧
     (due → (d.cmdOf 0).loadGood = true → d.canRequest = true →
       Becomes .hostLoad s { s with boot := { s.boot with loading := true } }))

/-- PWR_FAIL completes: programs are held, a page that is not full is closed with padding, and every fence fails with
E_HOLDUP. PWR_FAIL_CLEAR lets programs go on. PERST_N_ASSERT leaves the main part at its reset values: BOOT, no
flag, no frame, every slot FREE, no word in the store, no item; the flash, the Gazetteer and the Watch domain's
entries stand. POWER_LOSS does the same, ends the write in the Gazetteer and unpowers the Watch domain;
POWER_ON_RESET leaves that at reset with the straps sampled. PERST_N_RELEASE in a powered Watch domain samples the
straps and starts BOOT once monitors 0 to 7, all enabled, report inside. BOOT_END with no image chosen and every PLL
locked enters SAFE 0x10, or in FAULT takes that code; after an activation it returns to the state before; with the
settings loaded and the start-up calibration over it enters READY with COMPASS up, and before that, or outside BOOT,
it changes nothing. A host load that succeeded has its slot DONE from then on. Where this says more than the rules,
it is the model's choice: log 3, 22, 27, 97, 98, 99, 117 and 154. (R8, R11, R287, R311, R349, R352, R353, R361,
R364, R365, R375, R405) -/
def Obligations.ResetsAndPowerAct : Prop :=
  ∀ (s : State) (straps : Straps),
    let a := s.dev.atlas
    let up := s.watch.perstN = true ∨ s.watch.held = true
    let cleared := fun (t : State) => t.dev.gs.op = .boot ∧ t.dev.gs.flags = 0 ∧ t.dev.tb.running = false ∧ t.dev.tb.frame = 0 ∧
      (∀ x ∈ t.dev.host.slots, x.st = .free) ∧ t.dev.cap.mem = [] ∧ t.dev.survey.items = [] ∧ t.watch.perstN = false ∧
      t.boot = Boot.reset ∧ t.pending = s.pending ∧ t.dev.atlas.targets = a.targets ∧
      t.dev.atlas.formatId = a.formatId ∧ t.watch.gaz.bankA = s.watch.gaz.bankA ∧ t.watch.gaz.bankB = s.watch.gaz.bankB ∧
      t.watch.gaz.slotA = s.watch.gaz.slotA ∧ t.watch.gaz.slotB = s.watch.gaz.slotB ∧ t.relay.stack = []
    (∃ t, exec .pwrFail s = .next t ∧ t.watch.pwrFailN = false ∧
      t.dev.atlas = { (if a.laid < a.nextPage * a.pageWords then a.padLast else a) with powerHeld := true, fences := [] } ∧
      (∀ f ∈ a.fences, f.1 < s.dev.host.slots.length → (t.dev.slot f.1).st = .failed ∧
        (t.dev.slot f.1).error = BitVec.ofNat 8 eHoldup)) ∧
    Becomes .pwrFailClear s { s with dev := (s.dev.onAtlas fun x => { x with powerHeld := false }).runFlash.level 369 false
                                     watch := { s.watch with pwrFailN := true } } ∧
    (up → ∃ t, exec .perstNAssert s = .next t ∧ cleared t ∧ t.watch.powered = s.watch.powered ∧ t.watch.entries = s.watch.entries) ∧
    (¬up → Becomes .perstNAssert s s) ∧
    (s.watch.powered = true → ∃ t, exec .powerLoss s = .next t ∧ cleared t ∧ t.watch.powered = false ∧ t.watch.gaz.job = none ∧
      t.dev.atlas.unpowered = true) ∧
    (s.watch.powered = false → Becomes .powerLoss s s) ∧
    (∃ t, exec (.powerOnReset straps) s = .next t ∧ cleared t ∧ t.watch.powered = true ∧ t.watch.straps = straps ∧
      t.watch.entries = Watch.reset.entries ∧ t.watch.gaz.job = none) ∧
    (s.watch.powered = true → ¬up → ∃ t, exec (.perstNRelease straps) s = .next t ∧ t.watch.straps = straps ∧
      (s.watch.railsBad = true → t.watch.held = true ∧ t.watch.perstN = false) ∧
      (s.watch.railsBad = false → t.watch.held = false ∧ t.watch.perstN = true ∧ t.boot.running = true ∧ t.boot.loaded = false)) ∧
    (s.watch.powered = false ∨ up → Becomes (.perstNRelease straps) s s) ∧
    (s.watch.railsBad = false ↔ ∀ k, k < 8 → (s.watch.monitor k).enable = true ∧ (s.watch.monitor k).state = 0) ∧
    (let locked := s.dev.tb.meridian.locked = true ∧ s.dev.tb.engine.locked = true ∧ s.dev.tb.store.locked = true ∧
       s.dev.tb.chart.locked = true
     let on := s.watch.perstN = true ∧ s.boot.running = true ∧ s.dev.tb.running = true ∧ (s.boot.activeSlot = 0 → locked)
     let chosen := on ∧ s.dev.gs.op = .boot ∧ s.boot.activeSlot ≠ 0
     let ready := s.boot.loaded = true ∧ s.dev.cal.startDone = true
     let ends := fun (o : OpState) => ∃ t, exec .bootEnd s = .next t ∧ t.dev.gs.op = o ∧ t.boot.running = false ∧
       (t.dev.part partCompass).inReset = false
     (¬on → Becomes .bootEnd s s) ∧
     (on → s.boot.activeSlot = 0 → ends (if s.dev.gs.op = .fault then .fault else .safe) ∧
       ∃ t, exec .bootEnd s = .next t ∧ t.dev.gs.faultCode = 0x10) ∧
     (s.boot.loadDone = true → (s.dev.slot 0).st = .posted → 0 ∈ s.dev.host.queue → 0 < s.dev.host.slots.length →
       (on ∧ s.boot.activeSlot = 0) ∨ (chosen ∧ s.boot.activation = none ∧ ready) →
       ∃ t, exec .bootEnd s = .next t ∧ (t.dev.slot 0).st = .done ∧ (t.dev.slot 0).error = 0 ∧ t.boot.loadDone = false) ∧
     (∀ o, chosen → s.boot.activation = some o → ends o) ∧
     (chosen → s.boot.activation = none → ready → ends .ready) ∧
     (chosen → s.boot.activation = none → ¬ready → Becomes .bootEnd s s) ∧
     (on → s.dev.gs.op ≠ .boot → s.boot.activeSlot ≠ 0 → s.boot.loaded = true ∨ s.boot.activation.isSome = true →
       ends s.dev.gs.op) ∧
     (on → s.dev.gs.op ≠ .boot → s.boot.activeSlot ≠ 0 → s.boot.loaded = false → s.boot.activation = none →
       Becomes .bootEnd s s))

/-- For every bin value: 0 maps to index 0. Any other v maps to max(1, min(255, m)), with m = v >> SHIFT in LINEAR and m
= L(v) − L_OFF in LOG, where L(v) = 8e + ((v << 3 >> e) & 7) and e is floor(log2 v), that is 2^e ≤ v < 2^(e+1). L(1)
= 0, L(2^36 − 1) = 287, and L takes 8 steps per octave: L(2v) = L(v) + 8. (R252) -/
def Obligations.RendersMapByTheLegendIndex : Prop :=
  (∀ (log : Bool) (shift : Nat) (off : Int), legendIndex log shift off 0 = 0) ∧
  (∀ (v shift : Nat) (off : Int), 0 < v → (legendIndex false shift off v : Int) = max (1 : Int) (min 255 ((v >>> shift : Nat) : Int))) ∧
  (∀ (v e shift : Nat) (off : Int), 2 ^ e ≤ v → v < 2 ^ (e + 1) →
    (legendIndex true shift off v : Int) = max (1 : Int) (min 255 (((8 * e + (((v <<< 3) >>> e) &&& 7) : Nat) : Int) - off)) ∧
    logSteps v = 8 * e + (((v <<< 3) >>> e) &&& 7)) ∧
  logSteps 1 = 0 ∧ logSteps (2 ^ 36 - 1) = 287 ∧ (∀ v, 0 < v → logSteps (2 * v) = logSteps v + 8) ∧
  legendIndex true 0 16 1000 = 63 ∧ legendIndex false 4 0 1000 = 62

/-- For n / d in units of 2^-40 with d > 0: 0 is coded as 0. If some exponent from 0 to 63 makes round(n / (d × 2^e)),
half up, less than 2^30, the code is the smallest such e with that mantissa, and the value is not saturated. If none
does, the code is e = 63 with mantissa 2^30 − 1, and the value is saturated. (R210) -/
def Obligations.Bf36HasOneCoding : Prop :=
  ∀ n d : Nat, 0 < d →
    let m := fun (e : Nat) => (2 * n + d * 2 ^ e) / (2 * (d * 2 ^ e))
    (n = 0 → bfCode n d = (0, false)) ∧
    (0 < n → ∀ e, e ≤ 63 → m e < 2 ^ 30 → (∀ i, i < e → 2 ^ 30 ≤ m i) →
      (bfCode n d).2 = false ∧ fld (bfCode n d).1 35 30 = e ∧ fld (bfCode n d).1 29 0 = m e) ∧
    (0 < n → (∀ e, e ≤ 63 → 2 ^ 30 ≤ m e) →
      (bfCode n d).2 = true ∧ fld (bfCode n d).1 35 30 = 63 ∧ fld (bfCode n d).1 29 0 = 2 ^ 30 - 1)

/-- With PERST_N released and no rail out: with BOOT_SRC 0b00 and unequal ACT_SEQ the slot with the higher one is chosen
if it is valid, else the other if that is valid; with BOOT_SRC 0b01 slot A is chosen if it is valid, and slot B
never. With neither, no slot is chosen and the recovery image runs. In any state in which firmware accepts IDENTIFY,
bits [1:0] of the response's fifth word are ACTIVE_SLOT: 1 for A, 2 for B. (R362) -/
def Obligations.TheRomChoosesTheImage : Prop :=
  (∀ (s : State) (straps : Straps),
    let g := s.watch.gaz
    let a := (g.validImage false).isSome
    let b := (g.validImage true).isSome
    s.watch.powered = true → s.watch.perstN = false → s.watch.held = false → s.watch.railsBad = false →
    ∃ t, exec (.perstNRelease straps) s = .next t ∧
      (straps.bootSrc = 0 → g.actSeq true < g.actSeq false → t.boot.activeSlot = if a then 1 else if b then 2 else 0) ∧
      (straps.bootSrc = 0 → g.actSeq false < g.actSeq true → t.boot.activeSlot = if b then 2 else if a then 1 else 0) ∧
      (straps.bootSrc = 1 → t.boot.activeSlot = if a then 1 else 0)) ∧
  (∀ (s : State) (slot : SlotId), Ready s slot mbIdentify → s.boot.activeSlot < 4 →
    ∃ resp w, Completes (.identify slot) s slot s.dev false eOk resp ∧ resp[4]? = some w ∧ fld w 1 0 = s.boot.activeSlot)

/-- FRAME_TICK works, after its settings, the Survey engines' work for the frame n-2: outside BOOT, the result ring, the
result store and the items stand after it as that work leaves them. The work is not done for a frame that is
withheld. An overrun is counted, with a run-log record of type 9; in a run with CAPTURE up the batch of the frame is
written at the ring's write position, which goes on by its length, and the last reading of each item is kept; else
ring, capture store and results stay. A reading is made for each item in force with an open gate, the last frame of
a gate finally and the others as PARTIAL unless NO_PARTIAL; a frame that is not gated has none. A gate by frames
ends with its GATE_LEN-th frame, one by edges once GATE_LEN edges are counted. A reading's header gives kind, item
and frame, the generation and epoch at the end of the last frame and the adaptations of the gate; its flags PARTIAL,
OVERRUN, TB_COLD, HOLDOVER, ADAPTED and REF_STEP say what a frame of the gate met, bit 15 is 0, VALID is clear with
OVERRUN, LOST or SATURATED, and with OVERRUN or NO_SIGNAL the values are 0. COUNT's values are its edges and the
length of its gate; a digest's sense set counts its stamps and sums them from the middle of the frame. A transition
of the run is logged, and an adaptation logs and marks its frame. Where this says more than the rules, it is the
model's choice: log 3 and 58. (R15, R17, R24, R146, R152, R156, R158, R180, R186, R187, R190, R192) -/
def Obligations.TicksPublishTheReadings : Prop :=
  (∀ (s : State) (x : TickInputs), s.watch.perstN = true → s.dev.tb.running = true → s.boot.running = false →
    let a := s.dev.tickSettings x
    let s1 := State.loadTick { s with dev := a.1 } (s.dev.fw.deferred.filter fun e => decide (e.tick ≤ s.dev.nextTick))
    let e := (((s1.dev.thermalTick.tickChannels).lateTick x.late).ringTick.traverseTick).when (endsGates a.2) fun y =>
      y.endWindows y.tb.frame
    ∃ t, exec (.frameTick x) s = .next t ∧ e.tb.frame = s.dev.nextTick ∧ t.dev.ring = e.workTick.1.ring ∧
      t.dev.survey.store = e.workTick.1.survey.store ∧ t.dev.survey.items = e.workTick.1.survey.items) ∧
  (∀ d : Dev,
    let f := d.tb.frame
    let found := d.info (f - 2)
    ((f < 2 ∨ ∀ i, found = some i → i.unpublished = false) → d.workTick = (d, none)) ∧
    (∀ info, found = some info → 2 ≤ f → info.unpublished = true →
      let items := d.itemsWorked info d.survey.items
      let ps := (d.stickyTick info items).readingsOf info items
      let batch := batchOf info.frame ps
      let t := d.workTick.1
      t.survey.items = itemsAfterFrame info items ∧
      (d.survey.overrunFrame info = true → t.survey.overruns = d.survey.overruns + 1 ∧
        t.survey.runLog.getLast? = some ([word [(35, 32, 9)], w36 f] ++ wordsT72 0)) ∧
      (d.survey.overrunFrame info = false → t.survey.overruns = d.survey.overruns ∧ t.survey.runLog = d.survey.runLog) ∧
      (info.inRun = true → d.partUp partCapture = true → t.ring.wc = d.ring.wc + batch.length ∧
        t.cap.mem = Mem.ringWrites d.cap.mem ringBase ringWords 0 d.ring.wc batch ∧
        t.survey.store = ps.foldl storeReading d.survey.store) ∧
      (info.inRun = false ∨ d.partUp partCapture = false →
        t.ring = d.ring ∧ t.cap = d.cap ∧ t.survey.store = d.survey.store)) ∧
    (∀ (info : FrameInfo) (items : List ItemRun) (p : Published), p ∈ d.readingsOf info items ↔
      info.gated = true ∧ ∃ r ∈ items, r.covers info.frame = true ∧ ∃ b, r.phase.start info.frame = some b ∧
        ((r.finish info).2 = true ∨ r.item.noPartial = false) ∧
        p = ⟨r.num, !(r.finish info).2, d.reading items r b info.frame (!(r.finish info).2)⟩) ∧
    (∀ (items : List ItemRun) (r : ItemRun) (b g : Nat) (runs : Bool),
      let w := d.reading items r b g runs
      let fs := d.framesFrom b g
      let flag := fun n => (w.getD 0 0).getLsbD n
      let field := fun (n hi lo : Nat) => (w.getD n 0).toNat / 2 ^ lo % 2 ^ (hi + 1 - lo)
      let adapted := (fs.filter fun i => i.adapted).length
      field 0 35 28 = r.item.kind % 256 ∧ field 0 27 16 = r.num % 4096 ∧ w.getD 1 0 = w36 g ∧ 3 ≤ w.length ∧
      (∀ l, fs.getLast? = some l → field 2 35 20 = l.gen.toNat ∧ field 2 19 8 = l.epoch % 4096) ∧
      field 2 7 0 = min 255 adapted ∧
      flag 1 = runs ∧ flag 2 = (fs.any fun i => d.survey.overrunFor r.item i) ∧ flag 7 = (fs.any fun i => i.cold) ∧
      flag 8 = (fs.any fun i => i.holdover) ∧ flag 12 = (adapted != 0) ∧ flag 13 = (fs.any fun i => i.refStep) ∧
      flag 15 = false ∧ (flag 2 = true ∨ flag 3 = true ∨ flag 4 = true → flag 0 = false) ∧
      (flag 2 = true ∨ flag 6 = true → ∀ v ∈ w.drop 3, v = 0))) ∧
  (∀ (r : ItemRun) (info : FrameInfo) (b : Nat) (e : Option Nat), r.phase = .opened b e → b ≤ info.frame →
    (r.item.gateMode = 0 → ((r.finish info).2 = true ↔ b + r.item.gateLen ≤ info.frame + 1)) ∧
    (r.item.gateMode = 1 → ((r.finish info).2 = true ↔ r.item.gateLen ≤ r.count))) ∧
  (∀ g : Gate, g.item.kind = kCount → g.values.present = true ∧ g.values.vals.words =
    words72 (clampU 72 (g.own 0).length) ++ wordsT72 (clampS 72 (sumN (g.frames.map fun i => i.length * 4096) : Nat))) ∧
  (∀ (ts : List Int) (tick mid : Int),
    let w := (setWords ts tick mid).1
    w.head? = some (clampWord ts.length).1 ∧ (w.drop 5).take 3 = words108 (sumI (ts.map fun y => y - mid))) ∧
  (∀ (d : Dev) (t : Transition),
    (d.transit t).survey.runLog.getLast? = match t with
      | .start => some ([word [(35, 32, 0xA), (31, 0, 0)], w36 d.tb.frame] ++ wordsT72 0)
      | .hold => some ([word [(35, 32, 0xA), (31, 0, 1)], w36 d.tb.frame] ++ wordsT72 0)
      | .resume => some ([word [(35, 32, 0xA), (31, 0, 2)], w36 d.tb.frame] ++ wordsT72 0)
      | .stop => some ([word [(35, 32, 0xA), (31, 0, 3)], w36 d.tb.frame] ++ wordsT72 0)
      | _ => d.survey.runLog.getLast?) ∧
  (∀ (d : Dev) (c thr : Nat),
    let on := d.gs.op.running = true ∧ d.strict = false ∧ d.partUp partCompass = true
    (¬on → d.adaptLevel c thr = d) ∧
    (on → let u := d.adaptLevel c thr
      (c < d.chans.length → (u.chan c).cfg.thrA = thr) ∧ (∀ i ∈ u.survey.frames.head?, i.adapted = true) ∧
      u.survey.runLog.getLast? = some ([word [(35, 32, 4), (31, 0, c * 2 ^ 25 + thr)], w36 d.tb.frame] ++ wordsT72 0)))
end

