-- ==== Sys2Proof/Laws/State.lean ====
section
/-! SUPPORT. What each update of the device's record does to each of its parts, true by definition, so that no proof
unfolds a record update. -/

namespace Sys2Proof.Machine

variable (d : Dev)

@[simp] theorem Dev.onGs_gs (f : Global → Global) : (d.onGs f).gs = f d.gs := rfl
@[simp] theorem Dev.onGs_host (f : Global → Global) : (d.onGs f).host = d.host := rfl
@[simp] theorem Dev.onGs_ring (f : Global → Global) : (d.onGs f).ring = d.ring := rfl
@[simp] theorem Dev.onGs_chans (f : Global → Global) : (d.onGs f).chans = d.chans := rfl
@[simp] theorem Dev.onGs_cal (f : Global → Global) : (d.onGs f).cal = d.cal := rfl
@[simp] theorem Dev.onGs_tb (f : Global → Global) : (d.onGs f).tb = d.tb := rfl
@[simp] theorem Dev.onGs_survey (f : Global → Global) : (d.onGs f).survey = d.survey := rfl
@[simp] theorem Dev.onGs_cap (f : Global → Global) : (d.onGs f).cap = d.cap := rfl
@[simp] theorem Dev.onGs_atlas (f : Global → Global) : (d.onGs f).atlas = d.atlas := rfl
@[simp] theorem Dev.onGs_fw (f : Global → Global) : (d.onGs f).fw = d.fw := rfl
@[simp] theorem Dev.onGs_signals (f : Global → Global) : (d.onGs f).signals = d.signals := rfl

@[simp] theorem Dev.onHost_gs (f : HostLink → HostLink) : (d.onHost f).gs = d.gs := rfl
@[simp] theorem Dev.onHost_host (f : HostLink → HostLink) : (d.onHost f).host = f d.host := rfl
@[simp] theorem Dev.onHost_ring (f : HostLink → HostLink) : (d.onHost f).ring = d.ring := rfl
@[simp] theorem Dev.onHost_chans (f : HostLink → HostLink) : (d.onHost f).chans = d.chans := rfl
@[simp] theorem Dev.onHost_cal (f : HostLink → HostLink) : (d.onHost f).cal = d.cal := rfl
@[simp] theorem Dev.onHost_tb (f : HostLink → HostLink) : (d.onHost f).tb = d.tb := rfl
@[simp] theorem Dev.onHost_survey (f : HostLink → HostLink) : (d.onHost f).survey = d.survey := rfl
@[simp] theorem Dev.onHost_cap (f : HostLink → HostLink) : (d.onHost f).cap = d.cap := rfl
@[simp] theorem Dev.onHost_atlas (f : HostLink → HostLink) : (d.onHost f).atlas = d.atlas := rfl
@[simp] theorem Dev.onHost_fw (f : HostLink → HostLink) : (d.onHost f).fw = d.fw := rfl
@[simp] theorem Dev.onHost_signals (f : HostLink → HostLink) : (d.onHost f).signals = d.signals := rfl

@[simp] theorem Dev.onRing_gs (f : Ring → Ring) : (d.onRing f).gs = d.gs := rfl
@[simp] theorem Dev.onRing_host (f : Ring → Ring) : (d.onRing f).host = d.host := rfl
@[simp] theorem Dev.onRing_ring (f : Ring → Ring) : (d.onRing f).ring = f d.ring := rfl
@[simp] theorem Dev.onRing_chans (f : Ring → Ring) : (d.onRing f).chans = d.chans := rfl
@[simp] theorem Dev.onRing_cal (f : Ring → Ring) : (d.onRing f).cal = d.cal := rfl
@[simp] theorem Dev.onRing_tb (f : Ring → Ring) : (d.onRing f).tb = d.tb := rfl
@[simp] theorem Dev.onRing_survey (f : Ring → Ring) : (d.onRing f).survey = d.survey := rfl
@[simp] theorem Dev.onRing_cap (f : Ring → Ring) : (d.onRing f).cap = d.cap := rfl
@[simp] theorem Dev.onRing_atlas (f : Ring → Ring) : (d.onRing f).atlas = d.atlas := rfl
@[simp] theorem Dev.onRing_fw (f : Ring → Ring) : (d.onRing f).fw = d.fw := rfl
@[simp] theorem Dev.onRing_signals (f : Ring → Ring) : (d.onRing f).signals = d.signals := rfl

@[simp] theorem Dev.onCal_gs (f : Calibration → Calibration) : (d.onCal f).gs = d.gs := rfl
@[simp] theorem Dev.onCal_host (f : Calibration → Calibration) : (d.onCal f).host = d.host := rfl
@[simp] theorem Dev.onCal_ring (f : Calibration → Calibration) : (d.onCal f).ring = d.ring := rfl
@[simp] theorem Dev.onCal_chans (f : Calibration → Calibration) : (d.onCal f).chans = d.chans := rfl
@[simp] theorem Dev.onCal_cal (f : Calibration → Calibration) : (d.onCal f).cal = f d.cal := rfl
@[simp] theorem Dev.onCal_tb (f : Calibration → Calibration) : (d.onCal f).tb = d.tb := rfl
@[simp] theorem Dev.onCal_survey (f : Calibration → Calibration) : (d.onCal f).survey = d.survey := rfl
@[simp] theorem Dev.onCal_cap (f : Calibration → Calibration) : (d.onCal f).cap = d.cap := rfl
@[simp] theorem Dev.onCal_atlas (f : Calibration → Calibration) : (d.onCal f).atlas = d.atlas := rfl
@[simp] theorem Dev.onCal_fw (f : Calibration → Calibration) : (d.onCal f).fw = d.fw := rfl
@[simp] theorem Dev.onCal_signals (f : Calibration → Calibration) : (d.onCal f).signals = d.signals := rfl

@[simp] theorem Dev.onTb_gs (f : TimeBase → TimeBase) : (d.onTb f).gs = d.gs := rfl
@[simp] theorem Dev.onTb_host (f : TimeBase → TimeBase) : (d.onTb f).host = d.host := rfl
@[simp] theorem Dev.onTb_ring (f : TimeBase → TimeBase) : (d.onTb f).ring = d.ring := rfl
@[simp] theorem Dev.onTb_chans (f : TimeBase → TimeBase) : (d.onTb f).chans = d.chans := rfl
@[simp] theorem Dev.onTb_cal (f : TimeBase → TimeBase) : (d.onTb f).cal = d.cal := rfl
@[simp] theorem Dev.onTb_tb (f : TimeBase → TimeBase) : (d.onTb f).tb = f d.tb := rfl
@[simp] theorem Dev.onTb_survey (f : TimeBase → TimeBase) : (d.onTb f).survey = d.survey := rfl
@[simp] theorem Dev.onTb_cap (f : TimeBase → TimeBase) : (d.onTb f).cap = d.cap := rfl
@[simp] theorem Dev.onTb_atlas (f : TimeBase → TimeBase) : (d.onTb f).atlas = d.atlas := rfl
@[simp] theorem Dev.onTb_fw (f : TimeBase → TimeBase) : (d.onTb f).fw = d.fw := rfl
@[simp] theorem Dev.onTb_signals (f : TimeBase → TimeBase) : (d.onTb f).signals = d.signals := rfl

@[simp] theorem Dev.onSurvey_gs (f : Survey → Survey) : (d.onSurvey f).gs = d.gs := rfl
@[simp] theorem Dev.onSurvey_host (f : Survey → Survey) : (d.onSurvey f).host = d.host := rfl
@[simp] theorem Dev.onSurvey_ring (f : Survey → Survey) : (d.onSurvey f).ring = d.ring := rfl
@[simp] theorem Dev.onSurvey_chans (f : Survey → Survey) : (d.onSurvey f).chans = d.chans := rfl
@[simp] theorem Dev.onSurvey_cal (f : Survey → Survey) : (d.onSurvey f).cal = d.cal := rfl
@[simp] theorem Dev.onSurvey_tb (f : Survey → Survey) : (d.onSurvey f).tb = d.tb := rfl
@[simp] theorem Dev.onSurvey_survey (f : Survey → Survey) : (d.onSurvey f).survey = f d.survey := rfl
@[simp] theorem Dev.onSurvey_cap (f : Survey → Survey) : (d.onSurvey f).cap = d.cap := rfl
@[simp] theorem Dev.onSurvey_atlas (f : Survey → Survey) : (d.onSurvey f).atlas = d.atlas := rfl
@[simp] theorem Dev.onSurvey_fw (f : Survey → Survey) : (d.onSurvey f).fw = d.fw := rfl
@[simp] theorem Dev.onSurvey_signals (f : Survey → Survey) : (d.onSurvey f).signals = d.signals := rfl

@[simp] theorem Dev.onCap_gs (f : Capture → Capture) : (d.onCap f).gs = d.gs := rfl
@[simp] theorem Dev.onCap_host (f : Capture → Capture) : (d.onCap f).host = d.host := rfl
@[simp] theorem Dev.onCap_ring (f : Capture → Capture) : (d.onCap f).ring = d.ring := rfl
@[simp] theorem Dev.onCap_chans (f : Capture → Capture) : (d.onCap f).chans = d.chans := rfl
@[simp] theorem Dev.onCap_cal (f : Capture → Capture) : (d.onCap f).cal = d.cal := rfl
@[simp] theorem Dev.onCap_tb (f : Capture → Capture) : (d.onCap f).tb = d.tb := rfl
@[simp] theorem Dev.onCap_survey (f : Capture → Capture) : (d.onCap f).survey = d.survey := rfl
@[simp] theorem Dev.onCap_cap (f : Capture → Capture) : (d.onCap f).cap = f d.cap := rfl
@[simp] theorem Dev.onCap_atlas (f : Capture → Capture) : (d.onCap f).atlas = d.atlas := rfl
@[simp] theorem Dev.onCap_fw (f : Capture → Capture) : (d.onCap f).fw = d.fw := rfl
@[simp] theorem Dev.onCap_signals (f : Capture → Capture) : (d.onCap f).signals = d.signals := rfl

@[simp] theorem Dev.onAtlas_gs (f : Atlas → Atlas) : (d.onAtlas f).gs = d.gs := rfl
@[simp] theorem Dev.onAtlas_host (f : Atlas → Atlas) : (d.onAtlas f).host = d.host := rfl
@[simp] theorem Dev.onAtlas_ring (f : Atlas → Atlas) : (d.onAtlas f).ring = d.ring := rfl
@[simp] theorem Dev.onAtlas_chans (f : Atlas → Atlas) : (d.onAtlas f).chans = d.chans := rfl
@[simp] theorem Dev.onAtlas_cal (f : Atlas → Atlas) : (d.onAtlas f).cal = d.cal := rfl
@[simp] theorem Dev.onAtlas_tb (f : Atlas → Atlas) : (d.onAtlas f).tb = d.tb := rfl
@[simp] theorem Dev.onAtlas_survey (f : Atlas → Atlas) : (d.onAtlas f).survey = d.survey := rfl
@[simp] theorem Dev.onAtlas_cap (f : Atlas → Atlas) : (d.onAtlas f).cap = d.cap := rfl
@[simp] theorem Dev.onAtlas_atlas (f : Atlas → Atlas) : (d.onAtlas f).atlas = f d.atlas := rfl
@[simp] theorem Dev.onAtlas_fw (f : Atlas → Atlas) : (d.onAtlas f).fw = d.fw := rfl
@[simp] theorem Dev.onAtlas_signals (f : Atlas → Atlas) : (d.onAtlas f).signals = d.signals := rfl

@[simp] theorem Dev.onFw_gs (f : Firmware → Firmware) : (d.onFw f).gs = d.gs := rfl
@[simp] theorem Dev.onFw_host (f : Firmware → Firmware) : (d.onFw f).host = d.host := rfl
@[simp] theorem Dev.onFw_ring (f : Firmware → Firmware) : (d.onFw f).ring = d.ring := rfl
@[simp] theorem Dev.onFw_chans (f : Firmware → Firmware) : (d.onFw f).chans = d.chans := rfl
@[simp] theorem Dev.onFw_cal (f : Firmware → Firmware) : (d.onFw f).cal = d.cal := rfl
@[simp] theorem Dev.onFw_tb (f : Firmware → Firmware) : (d.onFw f).tb = d.tb := rfl
@[simp] theorem Dev.onFw_survey (f : Firmware → Firmware) : (d.onFw f).survey = d.survey := rfl
@[simp] theorem Dev.onFw_cap (f : Firmware → Firmware) : (d.onFw f).cap = d.cap := rfl
@[simp] theorem Dev.onFw_atlas (f : Firmware → Firmware) : (d.onFw f).atlas = d.atlas := rfl
@[simp] theorem Dev.onFw_fw (f : Firmware → Firmware) : (d.onFw f).fw = f d.fw := rfl
@[simp] theorem Dev.onFw_signals (f : Firmware → Firmware) : (d.onFw f).signals = d.signals := rfl

@[simp] theorem Dev.onChart_gs (f : Chart → Chart) : (d.onChart f).gs = d.gs := rfl
@[simp] theorem Dev.onChart_host (f : Chart → Chart) : (d.onChart f).host = d.host := rfl
@[simp] theorem Dev.onChart_ring (f : Chart → Chart) : (d.onChart f).ring = d.ring := rfl
@[simp] theorem Dev.onChart_chans (f : Chart → Chart) : (d.onChart f).chans = d.chans := rfl
@[simp] theorem Dev.onChart_cal (f : Chart → Chart) : (d.onChart f).cal = d.cal := rfl
@[simp] theorem Dev.onChart_tb (f : Chart → Chart) : (d.onChart f).tb = d.tb := rfl
@[simp] theorem Dev.onChart_survey (f : Chart → Chart) : (d.onChart f).survey = d.survey := rfl
@[simp] theorem Dev.onChart_cap (f : Chart → Chart) : (d.onChart f).cap = { d.cap with chart := f d.cap.chart } := rfl
@[simp] theorem Dev.onChart_atlas (f : Chart → Chart) : (d.onChart f).atlas = d.atlas := rfl
@[simp] theorem Dev.onChart_fw (f : Chart → Chart) : (d.onChart f).fw = d.fw := rfl
@[simp] theorem Dev.onChart_signals (f : Chart → Chart) : (d.onChart f).signals = d.signals := rfl

@[simp] theorem Dev.onAlign_gs (f : Align → Align) : (d.onAlign f).gs = d.gs := rfl
@[simp] theorem Dev.onAlign_host (f : Align → Align) : (d.onAlign f).host = d.host := rfl
@[simp] theorem Dev.onAlign_ring (f : Align → Align) : (d.onAlign f).ring = d.ring := rfl
@[simp] theorem Dev.onAlign_chans (f : Align → Align) : (d.onAlign f).chans = d.chans := rfl
@[simp] theorem Dev.onAlign_cal (f : Align → Align) : (d.onAlign f).cal = d.cal := rfl
@[simp] theorem Dev.onAlign_tb (f : Align → Align) : (d.onAlign f).tb = { d.tb with align := f d.tb.align } := rfl
@[simp] theorem Dev.onAlign_survey (f : Align → Align) : (d.onAlign f).survey = d.survey := rfl
@[simp] theorem Dev.onAlign_cap (f : Align → Align) : (d.onAlign f).cap = d.cap := rfl
@[simp] theorem Dev.onAlign_atlas (f : Align → Align) : (d.onAlign f).atlas = d.atlas := rfl
@[simp] theorem Dev.onAlign_fw (f : Align → Align) : (d.onAlign f).fw = d.fw := rfl
@[simp] theorem Dev.onAlign_signals (f : Align → Align) : (d.onAlign f).signals = d.signals := rfl

@[simp] theorem Dev.updChan_gs (c : Nat) (f : Channel → Channel) : (d.updChan c f).gs = d.gs := rfl
@[simp] theorem Dev.updChan_host (c : Nat) (f : Channel → Channel) : (d.updChan c f).host = d.host := rfl
@[simp] theorem Dev.updChan_ring (c : Nat) (f : Channel → Channel) : (d.updChan c f).ring = d.ring := rfl
@[simp] theorem Dev.updChan_chans (c : Nat) (f : Channel → Channel) : (d.updChan c f).chans = d.chans.modify c f := rfl
@[simp] theorem Dev.updChan_cal (c : Nat) (f : Channel → Channel) : (d.updChan c f).cal = d.cal := rfl
@[simp] theorem Dev.updChan_tb (c : Nat) (f : Channel → Channel) : (d.updChan c f).tb = d.tb := rfl
@[simp] theorem Dev.updChan_survey (c : Nat) (f : Channel → Channel) : (d.updChan c f).survey = d.survey := rfl
@[simp] theorem Dev.updChan_cap (c : Nat) (f : Channel → Channel) : (d.updChan c f).cap = d.cap := rfl
@[simp] theorem Dev.updChan_atlas (c : Nat) (f : Channel → Channel) : (d.updChan c f).atlas = d.atlas := rfl
@[simp] theorem Dev.updChan_fw (c : Nat) (f : Channel → Channel) : (d.updChan c f).fw = d.fw := rfl
@[simp] theorem Dev.updChan_signals (c : Nat) (f : Channel → Channel) : (d.updChan c f).signals = d.signals := rfl

@[simp] theorem Dev.updChans_gs (f : Nat → Channel → Channel) : (d.updChans f).gs = d.gs := rfl
@[simp] theorem Dev.updChans_host (f : Nat → Channel → Channel) : (d.updChans f).host = d.host := rfl
@[simp] theorem Dev.updChans_ring (f : Nat → Channel → Channel) : (d.updChans f).ring = d.ring := rfl
@[simp] theorem Dev.updChans_chans (f : Nat → Channel → Channel) : (d.updChans f).chans = d.chans.mapNum f := rfl
@[simp] theorem Dev.updChans_cal (f : Nat → Channel → Channel) : (d.updChans f).cal = d.cal := rfl
@[simp] theorem Dev.updChans_tb (f : Nat → Channel → Channel) : (d.updChans f).tb = d.tb := rfl
@[simp] theorem Dev.updChans_survey (f : Nat → Channel → Channel) : (d.updChans f).survey = d.survey := rfl
@[simp] theorem Dev.updChans_cap (f : Nat → Channel → Channel) : (d.updChans f).cap = d.cap := rfl
@[simp] theorem Dev.updChans_atlas (f : Nat → Channel → Channel) : (d.updChans f).atlas = d.atlas := rfl
@[simp] theorem Dev.updChans_fw (f : Nat → Channel → Channel) : (d.updChans f).fw = d.fw := rfl
@[simp] theorem Dev.updChans_signals (f : Nat → Channel → Channel) : (d.updChans f).signals = d.signals := rfl

@[simp] theorem Dev.setFlag_gs (i : Nat) : (d.setFlag i).gs = { d.gs with flags := d.gs.flags ||| BitVec.ofNat 64 (2 ^ i) } := rfl
@[simp] theorem Dev.setFlag_host (i : Nat) : (d.setFlag i).host = d.host := rfl
@[simp] theorem Dev.setFlag_ring (i : Nat) : (d.setFlag i).ring = d.ring := rfl
@[simp] theorem Dev.setFlag_chans (i : Nat) : (d.setFlag i).chans = d.chans := rfl
@[simp] theorem Dev.setFlag_cal (i : Nat) : (d.setFlag i).cal = d.cal := rfl
@[simp] theorem Dev.setFlag_tb (i : Nat) : (d.setFlag i).tb = d.tb := rfl
@[simp] theorem Dev.setFlag_survey (i : Nat) : (d.setFlag i).survey = d.survey := rfl
@[simp] theorem Dev.setFlag_cap (i : Nat) : (d.setFlag i).cap = d.cap := rfl
@[simp] theorem Dev.setFlag_atlas (i : Nat) : (d.setFlag i).atlas = d.atlas := rfl
@[simp] theorem Dev.setFlag_fw (i : Nat) : (d.setFlag i).fw = d.fw := rfl
@[simp] theorem Dev.setFlag_signals (i : Nat) : (d.setFlag i).signals = d.signals := rfl

@[simp] theorem Dev.pulse_gs (n : Nat) : (d.pulse n).gs = d.gs := rfl
@[simp] theorem Dev.pulse_host (n : Nat) : (d.pulse n).host = d.host := rfl
@[simp] theorem Dev.pulse_ring (n : Nat) : (d.pulse n).ring = d.ring := rfl
@[simp] theorem Dev.pulse_chans (n : Nat) : (d.pulse n).chans = d.chans := rfl
@[simp] theorem Dev.pulse_cal (n : Nat) : (d.pulse n).cal = d.cal := rfl
@[simp] theorem Dev.pulse_tb (n : Nat) : (d.pulse n).tb = d.tb := rfl
@[simp] theorem Dev.pulse_survey (n : Nat) : (d.pulse n).survey = d.survey := rfl
@[simp] theorem Dev.pulse_cap (n : Nat) : (d.pulse n).cap = d.cap := rfl
@[simp] theorem Dev.pulse_atlas (n : Nat) : (d.pulse n).atlas = d.atlas := rfl
@[simp] theorem Dev.pulse_fw (n : Nat) : (d.pulse n).fw = d.fw := rfl
@[simp] theorem Dev.pulse_signals (n : Nat) : (d.pulse n).signals = d.signals ++ [.pulse n] := rfl

@[simp] theorem Dev.level_gs (n : Nat) (on : Bool) : (d.level n on).gs = d.gs := rfl
@[simp] theorem Dev.level_host (n : Nat) (on : Bool) : (d.level n on).host = d.host := rfl
@[simp] theorem Dev.level_ring (n : Nat) (on : Bool) : (d.level n on).ring = d.ring := rfl
@[simp] theorem Dev.level_chans (n : Nat) (on : Bool) : (d.level n on).chans = d.chans := rfl
@[simp] theorem Dev.level_cal (n : Nat) (on : Bool) : (d.level n on).cal = d.cal := rfl
@[simp] theorem Dev.level_tb (n : Nat) (on : Bool) : (d.level n on).tb = d.tb := rfl
@[simp] theorem Dev.level_survey (n : Nat) (on : Bool) : (d.level n on).survey = d.survey := rfl
@[simp] theorem Dev.level_cap (n : Nat) (on : Bool) : (d.level n on).cap = d.cap := rfl
@[simp] theorem Dev.level_atlas (n : Nat) (on : Bool) : (d.level n on).atlas = d.atlas := rfl
@[simp] theorem Dev.level_fw (n : Nat) (on : Bool) : (d.level n on).fw = d.fw := rfl
@[simp] theorem Dev.level_signals (n : Nat) (on : Bool) : (d.level n on).signals = d.signals ++ [.level n on] := rfl

@[simp] theorem Dev.updSlot_gs (s : Nat) (f : Slot → Slot) : (d.updSlot s f).gs = d.gs := rfl
@[simp] theorem Dev.updSlot_host (s : Nat) (f : Slot → Slot) : (d.updSlot s f).host = { d.host with slots := d.host.slots.modify s f } := rfl
@[simp] theorem Dev.updSlot_ring (s : Nat) (f : Slot → Slot) : (d.updSlot s f).ring = d.ring := rfl
@[simp] theorem Dev.updSlot_chans (s : Nat) (f : Slot → Slot) : (d.updSlot s f).chans = d.chans := rfl
@[simp] theorem Dev.updSlot_cal (s : Nat) (f : Slot → Slot) : (d.updSlot s f).cal = d.cal := rfl
@[simp] theorem Dev.updSlot_tb (s : Nat) (f : Slot → Slot) : (d.updSlot s f).tb = d.tb := rfl
@[simp] theorem Dev.updSlot_survey (s : Nat) (f : Slot → Slot) : (d.updSlot s f).survey = d.survey := rfl
@[simp] theorem Dev.updSlot_cap (s : Nat) (f : Slot → Slot) : (d.updSlot s f).cap = d.cap := rfl
@[simp] theorem Dev.updSlot_atlas (s : Nat) (f : Slot → Slot) : (d.updSlot s f).atlas = d.atlas := rfl
@[simp] theorem Dev.updSlot_fw (s : Nat) (f : Slot → Slot) : (d.updSlot s f).fw = d.fw := rfl
@[simp] theorem Dev.updSlot_signals (s : Nat) (f : Slot → Slot) : (d.updSlot s f).signals = d.signals := rfl

@[simp] theorem Dev.updPart_gs (p : Nat) (f : Partition → Partition) : (d.updPart p f).gs = d.gs := rfl
@[simp] theorem Dev.updPart_host (p : Nat) (f : Partition → Partition) : (d.updPart p f).host = d.host := rfl
@[simp] theorem Dev.updPart_ring (p : Nat) (f : Partition → Partition) : (d.updPart p f).ring = d.ring := rfl
@[simp] theorem Dev.updPart_chans (p : Nat) (f : Partition → Partition) : (d.updPart p f).chans = d.chans := rfl
@[simp] theorem Dev.updPart_cal (p : Nat) (f : Partition → Partition) : (d.updPart p f).cal = d.cal := rfl
@[simp] theorem Dev.updPart_tb (p : Nat) (f : Partition → Partition) : (d.updPart p f).tb = d.tb := rfl
@[simp] theorem Dev.updPart_survey (p : Nat) (f : Partition → Partition) : (d.updPart p f).survey = d.survey := rfl
@[simp] theorem Dev.updPart_cap (p : Nat) (f : Partition → Partition) : (d.updPart p f).cap = d.cap := rfl
@[simp] theorem Dev.updPart_atlas (p : Nat) (f : Partition → Partition) : (d.updPart p f).atlas = d.atlas := rfl
@[simp] theorem Dev.updPart_fw (p : Nat) (f : Partition → Partition) : (d.updPart p f).fw = { d.fw with parts := d.fw.parts.modify p f } := rfl
@[simp] theorem Dev.updPart_signals (p : Nat) (f : Partition → Partition) : (d.updPart p f).signals = d.signals := rfl

@[simp] theorem Dev.defer_gs (t o : Nat) (e : Effect) : (d.defer t o e).gs = d.gs := rfl
@[simp] theorem Dev.defer_host (t o : Nat) (e : Effect) : (d.defer t o e).host = d.host := rfl
@[simp] theorem Dev.defer_ring (t o : Nat) (e : Effect) : (d.defer t o e).ring = d.ring := rfl
@[simp] theorem Dev.defer_chans (t o : Nat) (e : Effect) : (d.defer t o e).chans = d.chans := rfl
@[simp] theorem Dev.defer_cal (t o : Nat) (e : Effect) : (d.defer t o e).cal = d.cal := rfl
@[simp] theorem Dev.defer_tb (t o : Nat) (e : Effect) : (d.defer t o e).tb = d.tb := rfl
@[simp] theorem Dev.defer_survey (t o : Nat) (e : Effect) : (d.defer t o e).survey = d.survey := rfl
@[simp] theorem Dev.defer_cap (t o : Nat) (e : Effect) : (d.defer t o e).cap = d.cap := rfl
@[simp] theorem Dev.defer_atlas (t o : Nat) (e : Effect) : (d.defer t o e).atlas = d.atlas := rfl
@[simp] theorem Dev.defer_fw (t o : Nat) (e : Effect) : (d.defer t o e).fw = { d.fw with deferred := d.fw.deferred ++ [{ tick := t, opcode := o, effect := e }] } := rfl
@[simp] theorem Dev.defer_signals (t o : Nat) (e : Effect) : (d.defer t o e).signals = d.signals := rfl

@[simp] theorem Dev.addTransition_gs (x : Transition) : (d.addTransition x).gs = { d.gs with transitions := d.gs.transitions ++ [(d.transitionTick, x)] } := rfl
@[simp] theorem Dev.addTransition_host (x : Transition) : (d.addTransition x).host = d.host := rfl
@[simp] theorem Dev.addTransition_ring (x : Transition) : (d.addTransition x).ring = d.ring := rfl
@[simp] theorem Dev.addTransition_chans (x : Transition) : (d.addTransition x).chans = d.chans := rfl
@[simp] theorem Dev.addTransition_cal (x : Transition) : (d.addTransition x).cal = d.cal := rfl
@[simp] theorem Dev.addTransition_tb (x : Transition) : (d.addTransition x).tb = d.tb := rfl
@[simp] theorem Dev.addTransition_survey (x : Transition) : (d.addTransition x).survey = d.survey := rfl
@[simp] theorem Dev.addTransition_cap (x : Transition) : (d.addTransition x).cap = d.cap := rfl
@[simp] theorem Dev.addTransition_atlas (x : Transition) : (d.addTransition x).atlas = d.atlas := rfl
@[simp] theorem Dev.addTransition_fw (x : Transition) : (d.addTransition x).fw = d.fw := rfl
@[simp] theorem Dev.addTransition_signals (x : Transition) : (d.addTransition x).signals = d.signals := rfl

@[simp] theorem Dev.progress_gs (s p : Nat) : (d.progress s p).gs = d.gs := rfl
@[simp] theorem Dev.progress_host (s p : Nat) : (d.progress s p).host = { d.host with slots := d.host.slots.modify s fun x => { x with progress := max x.progress (min 1000 p) } } := rfl
@[simp] theorem Dev.progress_ring (s p : Nat) : (d.progress s p).ring = d.ring := rfl
@[simp] theorem Dev.progress_chans (s p : Nat) : (d.progress s p).chans = d.chans := rfl
@[simp] theorem Dev.progress_cal (s p : Nat) : (d.progress s p).cal = d.cal := rfl
@[simp] theorem Dev.progress_tb (s p : Nat) : (d.progress s p).tb = d.tb := rfl
@[simp] theorem Dev.progress_survey (s p : Nat) : (d.progress s p).survey = d.survey := rfl
@[simp] theorem Dev.progress_cap (s p : Nat) : (d.progress s p).cap = d.cap := rfl
@[simp] theorem Dev.progress_atlas (s p : Nat) : (d.progress s p).atlas = d.atlas := rfl
@[simp] theorem Dev.progress_fw (s p : Nat) : (d.progress s p).fw = d.fw := rfl
@[simp] theorem Dev.progress_signals (s p : Nat) : (d.progress s p).signals = d.signals := rfl

@[simp] theorem Dev.take_gs (s : Nat) : (d.take s).gs = d.gs := rfl
@[simp] theorem Dev.take_host (s : Nat) : (d.take s).host = { d.host with queue := d.host.queue.drop 1, slots := d.host.slots.modify s fun x => { x with st := .accepted } } := rfl
@[simp] theorem Dev.take_ring (s : Nat) : (d.take s).ring = d.ring := rfl
@[simp] theorem Dev.take_chans (s : Nat) : (d.take s).chans = d.chans := rfl
@[simp] theorem Dev.take_cal (s : Nat) : (d.take s).cal = d.cal := rfl
@[simp] theorem Dev.take_tb (s : Nat) : (d.take s).tb = d.tb := rfl
@[simp] theorem Dev.take_survey (s : Nat) : (d.take s).survey = d.survey := rfl
@[simp] theorem Dev.take_cap (s : Nat) : (d.take s).cap = d.cap := rfl
@[simp] theorem Dev.take_atlas (s : Nat) : (d.take s).atlas = d.atlas := rfl
@[simp] theorem Dev.take_fw (s : Nat) : (d.take s).fw = d.fw := rfl
@[simp] theorem Dev.take_signals (s : Nat) : (d.take s).signals = d.signals := rfl

@[simp] theorem Dev.when_true (f : Dev → Dev) : d.when true f = f d := rfl
@[simp] theorem Dev.when_false (f : Dev → Dev) : d.when false f = d := rfl

/-- A condition in front of a step: a part that the step keeps is kept. -/
theorem Dev.when_keeps {α : Type} (b : Bool) (f : Dev → Dev) (p : Dev → α) (h : ∀ e, p (f e) = p e) :
    p (d.when b f) = p d := by
  cases b <;> simp [h]

/-- A part that every step keeps is kept by all of them. -/
theorem Dev.each_keeps {α β : Type} (l : List α) (f : Dev → α → Dev) (p : Dev → β)
    (h : ∀ e x, p (f e x) = p e) : p (d.each l f) = p d := by
  induction l generalizing d with
  | nil => rfl
  | cons x r ih => exact (ih (f d x)).trans (h d x)

end Sys2Proof.Machine
end

