-- ==== Sys2Proof/Laws/Settle.lean ====
section
/-! SUPPORT. What the end of a step (`State.settle`) can do: it senses the step's signals, sends MSI-X messages and
updates the relay's events and the Watch domain's view. Everything else passes through it. -/

namespace Sys2Proof.Machine

/-! ## Messages -/

theorem Dev.msix_frame (d : Dev) (v : Nat) :
    ∃ s p, d.msix v = { d with host := { d.host with msixSent := s, msixPending := p } } := by
  unfold Dev.msix
  split
  · exact ⟨v :: d.host.msixSent, d.host.msixPending, rfl⟩
  · exact ⟨d.host.msixSent, _, rfl⟩

theorem Dev.flushMsix_frame (d : Dev) :
    ∃ s p, d.flushMsix = { d with host := { d.host with msixSent := s, msixPending := p } } := ⟨_, _, rfl⟩

theorem Dev.eachMsix_frame (ps : List Nat) (d : Dev) :
    ∃ s p, (d.each ps fun e v => e.msix v) = { d with host := { d.host with msixSent := s, msixPending := p } } := by
  induction ps generalizing d with
  | nil => exact ⟨_, _, rfl⟩
  | cons v r ih =>
    obtain ⟨s, p, h⟩ := d.msix_frame v
    obtain ⟨s', p', h'⟩ := ih (d.msix v)
    refine ⟨s', p', ?_⟩
    have e : d.each (v :: r) (fun e v => e.msix v) = (d.msix v).each r fun e v => e.msix v := rfl
    rw [e, h', h]

/-- A message once sent or held stays so. -/
theorem Dev.msix_keeps (d : Dev) (v w : Nat) (h : w ∈ d.host.msixSent ∨ w ∈ d.host.msixPending) :
    w ∈ (d.msix v).host.msixSent ∨ w ∈ (d.msix v).host.msixPending := by
  unfold Dev.msix
  split
  · simpa using h.imp .inr id
  · simp only [Dev.onHost_host]
    refine h.imp id fun k => ?_
    split
    · exact k
    · exact List.mem_append_left _ k

/-- The messages under way. -/
theorem Dev.eachMsix_keeps (ps : List Nat) (d : Dev) (w : Nat) (h : w ∈ d.host.msixSent ∨ w ∈ d.host.msixPending) :
    w ∈ (d.each ps fun e v => e.msix v).host.msixSent ∨ w ∈ (d.each ps fun e v => e.msix v).host.msixPending := by
  induction ps generalizing d with
  | nil => exact h
  | cons v r ih => exact ih (d.msix v) (d.msix_keeps v w h)

theorem Dev.flushMsix_keeps (d : Dev) (w : Nat) (h : w ∈ d.host.msixSent ∨ w ∈ d.host.msixPending) :
    w ∈ d.flushMsix.host.msixSent ∨ w ∈ d.flushMsix.host.msixPending := by
  unfold Dev.flushMsix
  simp only [Dev.onHost_host, List.mem_append, List.mem_reverse, List.mem_filter]
  rcases h with h | h
  · exact .inl (.inr h)
  · by_cases hb : (d.canRequest && d.vectorOpen w) = true
    · exact .inl (.inl ⟨h, hb⟩)
    · right; exact ⟨h, by simp [hb]⟩

/-! ## One source -/

/-- What neither a signal nor a level sense changes in a source: its settings and its mask. -/
theorem Source.event_cfg (x : Source) : x.event.cfg = x.cfg ∧ x.event.masked = x.masked := by
  unfold Source.event; split <;> simp

theorem Source.input_cfg (x : Source) (on : Bool) : (x.input on).cfg = x.cfg ∧ (x.input on).masked = x.masked := by
  unfold Source.input
  dsimp only
  split
  · exact Source.event_cfg _
  · simp

theorem Source.pulsed_cfg (x : Source) : x.pulsed.cfg = x.cfg ∧ x.pulsed.masked = x.masked := by
  unfold Source.pulsed
  split
  · exact x.event_cfg
  · have h1 := Source.input_cfg { x with level := false } true
    have h2 := Source.input_cfg (Source.input { x with level := false } true) false
    exact ⟨h2.1.trans h1.1, h2.2.trans h1.2⟩

theorem Source.resense_cfg (x : Source) (c : Bool) : (x.resense c).cfg = x.cfg ∧ (x.resense c).masked = x.masked := by
  unfold Source.resense; split <;> simp

/-! ## What the relay keeps -/

theorem Relay.Same.refl {r : Relay} : r.Same r := by constructor <;> rfl

theorem Relay.Same.trans {a b c : Relay} (h : a.Same b) (k : b.Same c) : a.Same c := by
  cases h; cases k; constructor <;> simp_all

theorem map_modify_same {α β : Type} (g : α → β) (f : α → α) (h : ∀ x, g (f x) = g x) :
    ∀ (l : List α) (n : Nat), (l.modify n f).map g = l.map g
  | [], n => by cases n <;> rfl
  | x :: r, 0 => by simp [h]
  | x :: r, n + 1 => by simpa using map_modify_same g f h r n

theorem map_mapNum_same {α β : Type} (g : α → β) (f : Nat → α → α) (h : ∀ n x, g (f n x) = g x) (l : List α) :
    (l.mapNum f).map g = l.map g := by
  unfold List.mapNum
  rw [List.map_map]
  have : (g ∘ fun x : α × Nat => f x.2 x.1) = fun x => g x.1 := funext fun x => h x.2 x.1
  rw [this]
  have h2 : (fun x : α × Nat => g x.1) = g ∘ Prod.fst := rfl
  rw [h2, ← List.map_map, List.zipIdx_map_fst]

@[simp] theorem length_mapNum {α β : Type} (f : Nat → α → β) (l : List α) : (l.mapNum f).length = l.length := by
  simp [List.mapNum]

theorem Relay.same_sources (r : Relay) (l : List Source) (hc : l.map Source.cfg = r.sources.map Source.cfg)
    (hm : l.map Source.masked = r.sources.map Source.masked) : r.Same { r with sources := l } :=
  ⟨hc, hm, rfl, rfl, rfl, rfl, rfl, rfl, rfl, rfl, rfl, rfl, rfl, rfl, rfl⟩

theorem Relay.upd_same (r : Relay) (n : Nat) (f : Source → Source) (h : ∀ x, (f x).cfg = x.cfg ∧ (f x).masked = x.masked) :
    r.Same (r.upd n f) :=
  r.same_sources _ (map_modify_same _ _ (fun x => (h x).1) _ _) (map_modify_same _ _ (fun x => (h x).2) _ _)

theorem Relay.signal_same (r : Relay) (g : Signal) : r.Same (r.signal g) := by
  cases g with
  | pulse n => exact r.upd_same n _ Source.pulsed_cfg
  | level n on => exact r.upd_same n _ fun x => x.input_cfg on

theorem Relay.resense_same (r : Relay) : r.Same r.resense :=
  r.same_sources _ (map_mapNum_same _ _ (fun _ x => (x.resense_cfg _).1) _) (map_mapNum_same _ _ (fun _ x => (x.resense_cfg _).2) _)

theorem Relay.chooseFor_maps {α : Type} (f : Source → α) (hf : ∀ x t, f { x with chosen := t } = f x) (r : Relay) (h : Bool)
    (l : List Source) (n : Nat) : (r.chooseFor h n l).1.map f = l.map f := by
  induction l generalizing n with
  | nil => rfl
  | cons x xs ih => simp only [Relay.chooseFor, List.map_cons, hf, ih]

/-- A choice writes the chosen targets alone. -/
theorem Relay.choose_same (r : Relay) (h : Bool) : r.Same (r.choose h) := by
  constructor <;> first | rfl | exact r.chooseFor_maps _ (fun _ _ => rfl) h _ _

/-- A core that leaves its park changes nothing else. -/
theorem Relay.wakeCores_same (r : Relay) : r.Same r.wakeCores := by constructor <;> rfl

theorem Relay.coreClaims_same (r : Relay) : r.Same r.coreClaims := by
  apply r.same_sources <;> (rw [List.map_map]; congr 1; funext x; simp only [Function.comp]; split <;> rfl)

/-! ## What the Watch domain keeps -/

theorem Watch.Same.refl {w : Watch} : w.Same w := by constructor <;> rfl

theorem Watch.Same.trans {a b c : Watch} (h : a.Same b) (k : b.Same c) : a.Same c := by
  cases h; cases k; constructor <;> simp_all

theorem Watch.see_same (w : Watch) (m : Nat) : w.Same (w.see m) := by constructor <;> rfl

theorem Watch.sense_same (w : Watch) (was : Bool) (g : Signal) : w.Same (w.sense was g) := by
  unfold Watch.sense
  split
  · exact w.see_same _
  · exact .refl

theorem Watch.release_same (w : Watch) : w.Same w.release := by
  unfold Watch.release
  split <;> constructor <;> rfl

/-! ## The end of a step -/

/-- What every part of the end of a step keeps: all of the device but the signals and the MSI-X messages, the queue and
the start-up, and of the relay and the Watch domain all but the events and what they show. -/
structure State.Passes (s t : State) : Prop where
  pending : t.pending = s.pending
  boot : t.boot = s.boot
  dev : ∃ m p g, t.dev = { s.dev with host := { s.dev.host with msixSent := m, msixPending := p }, signals := g }
  relay : s.relay.Same t.relay
  watch : s.watch.Same t.watch
  messages : ∀ w, w ∈ s.dev.host.msixSent ∨ w ∈ s.dev.host.msixPending →
    w ∈ t.dev.host.msixSent ∨ w ∈ t.dev.host.msixPending

theorem State.Passes.refl {s : State} : s.Passes s := ⟨rfl, rfl, ⟨_, _, _, rfl⟩, .refl, .refl, fun _ h => h⟩

theorem State.Passes.trans {a b c : State} (h : a.Passes b) (k : b.Passes c) : a.Passes c := by
  obtain ⟨m, p, g, e⟩ := h.dev
  obtain ⟨m', p', g', e'⟩ := k.dev
  exact ⟨k.pending.trans h.pending, k.boot.trans h.boot, ⟨m', p', g', by rw [e', e]⟩, h.relay.trans k.relay,
    h.watch.trans k.watch, fun w q => k.messages w (h.messages w q)⟩

/-- A step of the end that changes the relay alone. -/
theorem State.passes_relay (s : State) (r : Relay) (h : s.relay.Same r) : s.Passes { s with relay := r } :=
  ⟨rfl, rfl, ⟨_, _, _, rfl⟩, h, .refl, fun _ q => q⟩

theorem State.passes_watch (s : State) (w : Watch) (h : s.watch.Same w) : s.Passes { s with watch := w } :=
  ⟨rfl, rfl, ⟨_, _, _, rfl⟩, .refl, h, fun _ q => q⟩

theorem State.signal_passes (s : State) (g : Signal) : s.Passes (s.signal g) := by
  have hr : s.relay.Same (s.signal g).relay := by
    show s.relay.Same (if s.watch.perstN then s.relay.signal g else _)
    split
    · exact s.relay.signal_same g
    · cases g with
      | pulse n => exact .refl
      | level n on =>
        dsimp only
        split
        · exact s.relay.upd_same n _ fun _ => ⟨rfl, rfl⟩
        · exact .refl
  exact (s.passes_relay _ hr).trans (State.passes_watch _ _ (Watch.sense_same _ _ _))

theorem State.signals_passes (gs : List Signal) (s : State) : s.Passes (gs.foldl State.signal s) := by
  induction gs generalizing s with
  | nil => exact .refl
  | cons g t ih => exact (s.signal_passes g).trans (ih (s.signal g))

theorem State.deliver_passes (s : State) : s.Passes s.deliver := by
  obtain ⟨m, p, h⟩ := Dev.eachMsix_frame (s.relay.newMessages (linkAsleep s.dev.host.link)) s.dev
  refine ⟨rfl, rfl, ⟨m, p, s.dev.signals, h⟩, ?_, .refl, fun w q => Dev.eachMsix_keeps _ _ w q⟩
  constructor <;> rfl

theorem Watch.setHWake_same (w : Watch) (on : Bool) : w.Same (w.setHWake on) := by constructor <;> rfl

theorem State.wake_passes (s : State) : s.Passes s.wake := s.passes_watch _ (Watch.setHWake_same _ _)

theorem State.post_passes (s : State) : s.Passes s.post := s.passes_watch _ (by constructor <;> rfl)

theorem State.senseSignals_passes (s : State) : s.Passes s.senseSignals := by
  have h0 : s.Passes { s with dev := { s.dev with signals := [] } } := ⟨rfl, rfl, ⟨_, _, _, rfl⟩, .refl, .refl, fun _ h => h⟩
  exact h0.trans (State.signals_passes s.dev.signals _)

theorem State.senseLevels_passes (s : State) : s.Passes s.senseLevels := by
  unfold State.senseLevels
  split
  · exact s.passes_relay _ s.relay.resense_same
  · exact .refl

theorem State.chooseTargets_passes (s : State) : s.Passes s.chooseTargets := by
  unfold State.chooseTargets
  split
  · exact s.passes_relay _ (s.relay.choose_same _)
  · exact .refl

theorem State.watchLevels_passes (s : State) : s.Passes s.watchLevels := s.passes_watch _ (Watch.see_same _ _)

theorem State.messages_passes (s : State) : s.Passes s.messages := by
  unfold State.messages
  refine State.Passes.trans ?_ (State.wake_passes _)
  split
  · exact s.deliver_passes
  · exact .refl

theorem State.serveRelay_passes (s : State) : s.Passes s.serveRelay := by
  refine ⟨rfl, rfl, ⟨_, _, _, rfl⟩, ?_, .refl, fun w q => s.dev.flushMsix_keeps w q⟩
  show s.relay.Same (if s.watch.perstN then _ else _)
  split
  · exact s.relay.wakeCores_same.trans (Relay.coreClaims_same _)
  · exact .refl

theorem State.releaseAlert_passes (s : State) : s.Passes s.releaseAlert := s.passes_watch _ (Watch.release_same _)

/-- What the end of a step keeps. -/
theorem State.settle_passes (s : State) : s.Passes s.settle :=
  s.senseSignals_passes.trans (State.senseLevels_passes _ |>.trans (State.chooseTargets_passes _ |>.trans
    (State.watchLevels_passes _ |>.trans (State.messages_passes _ |>.trans (State.serveRelay_passes _ |>.trans
      (State.releaseAlert_passes _ |>.trans (State.post_passes _)))))))

/-! ## The parts one by one -/

@[simp] theorem State.settle_pending (s : State) : s.settle.pending = s.pending := s.settle_passes.pending
@[simp] theorem State.settle_boot (s : State) : s.settle.boot = s.boot := s.settle_passes.boot

@[simp] theorem State.settle_gs (s : State) : s.settle.dev.gs = s.dev.gs := by
  obtain ⟨m, p, g, h⟩ := s.settle_passes.dev
  rw [h]

@[simp] theorem State.settle_ring (s : State) : s.settle.dev.ring = s.dev.ring := by
  obtain ⟨m, p, g, h⟩ := s.settle_passes.dev
  rw [h]

@[simp] theorem State.settle_chans (s : State) : s.settle.dev.chans = s.dev.chans := by
  obtain ⟨m, p, g, h⟩ := s.settle_passes.dev
  rw [h]

@[simp] theorem State.settle_cal (s : State) : s.settle.dev.cal = s.dev.cal := by
  obtain ⟨m, p, g, h⟩ := s.settle_passes.dev
  rw [h]

@[simp] theorem State.settle_tb (s : State) : s.settle.dev.tb = s.dev.tb := by
  obtain ⟨m, p, g, h⟩ := s.settle_passes.dev
  rw [h]

@[simp] theorem State.settle_survey (s : State) : s.settle.dev.survey = s.dev.survey := by
  obtain ⟨m, p, g, h⟩ := s.settle_passes.dev
  rw [h]

@[simp] theorem State.settle_cap (s : State) : s.settle.dev.cap = s.dev.cap := by
  obtain ⟨m, p, g, h⟩ := s.settle_passes.dev
  rw [h]

@[simp] theorem State.settle_atlas (s : State) : s.settle.dev.atlas = s.dev.atlas := by
  obtain ⟨m, p, g, h⟩ := s.settle_passes.dev
  rw [h]

@[simp] theorem State.settle_fw (s : State) : s.settle.dev.fw = s.dev.fw := by
  obtain ⟨m, p, g, h⟩ := s.settle_passes.dev
  rw [h]

@[simp] theorem State.settle_slots (s : State) : s.settle.dev.host.slots = s.dev.host.slots := by
  obtain ⟨m, p, g, h⟩ := s.settle_passes.dev
  rw [h]

@[simp] theorem State.settle_queue (s : State) : s.settle.dev.host.queue = s.dev.host.queue := by
  obtain ⟨m, p, g, h⟩ := s.settle_passes.dev
  rw [h]

@[simp] theorem State.settle_link (s : State) : s.settle.dev.host.link = s.dev.host.link := by
  obtain ⟨m, p, g, h⟩ := s.settle_passes.dev
  rw [h]

@[simp] theorem State.settle_msixTable (s : State) : s.settle.dev.host.msixTable = s.dev.host.msixTable := by
  obtain ⟨m, p, g, h⟩ := s.settle_passes.dev
  rw [h]

@[simp] theorem State.settle_readValue (s : State) : s.settle.dev.host.readValue = s.dev.host.readValue := by
  obtain ⟨m, p, g, h⟩ := s.settle_passes.dev
  rw [h]

@[simp] theorem State.settle_aerCount (s : State) : s.settle.dev.host.aerCount = s.dev.host.aerCount := by
  obtain ⟨m, p, g, h⟩ := s.settle_passes.dev
  rw [h]

@[simp] theorem State.settle_shadow (s : State) : s.settle.relay.shadow = s.relay.shadow := s.settle_passes.relay.shadow

@[simp] theorem State.settle_stack (s : State) : s.settle.relay.stack = s.relay.stack := s.settle_passes.relay.stack

@[simp] theorem State.settle_floor (s : State) : s.settle.relay.floor = s.relay.floor := s.settle_passes.relay.floor

@[simp] theorem State.settle_order (s : State) : s.settle.relay.order = s.relay.order := s.settle_passes.relay.order

@[simp] theorem State.settle_unclaimed (s : State) : s.settle.relay.unclaimed = s.relay.unclaimed := s.settle_passes.relay.unclaimed

@[simp] theorem State.settle_fwOrder (s : State) : s.settle.relay.fwOrder = s.relay.fwOrder := s.settle_passes.relay.fwOrder

@[simp] theorem State.settle_badSource (s : State) : s.settle.relay.badSource = s.relay.badSource := s.settle_passes.relay.badSource

@[simp] theorem State.settle_snapDepth (s : State) : s.settle.relay.snapDepth = s.relay.snapDepth := s.settle_passes.relay.snapDepth

@[simp] theorem State.settle_faultCount (s : State) : s.settle.relay.faultCount = s.relay.faultCount := s.settle_passes.relay.faultCount

@[simp] theorem State.settle_faultAgain (s : State) : s.settle.relay.faultAgain = s.relay.faultAgain := s.settle_passes.relay.faultAgain

@[simp] theorem State.settle_snap (s : State) : s.settle.relay.snap = s.relay.snap := s.settle_passes.relay.snap

@[simp] theorem State.settle_corePrio (s : State) : s.settle.relay.corePrio = s.relay.corePrio := s.settle_passes.relay.corePrio

@[simp] theorem State.settle_coreFloor (s : State) : s.settle.relay.coreFloor = s.relay.coreFloor := s.settle_passes.relay.coreFloor

@[simp] theorem State.settle_powered (s : State) : s.settle.watch.powered = s.watch.powered := s.settle_passes.watch.powered

@[simp] theorem State.settle_monitors (s : State) : s.settle.watch.monitors = s.watch.monitors := s.settle_passes.watch.monitors

@[simp] theorem State.settle_latchAgain (s : State) : s.settle.watch.latchAgain = s.watch.latchAgain := s.settle_passes.watch.latchAgain

@[simp] theorem State.settle_holdup (s : State) : s.settle.watch.holdup = s.watch.holdup := s.settle_passes.watch.holdup

@[simp] theorem State.settle_holdupResult (s : State) : s.settle.watch.holdupResult = s.watch.holdupResult := s.settle_passes.watch.holdupResult

@[simp] theorem State.settle_entries (s : State) : s.settle.watch.entries = s.watch.entries := s.settle_passes.watch.entries

@[simp] theorem State.settle_wakeAgain (s : State) : s.settle.watch.wakeAgain = s.watch.wakeAgain := s.settle_passes.watch.wakeAgain

@[simp] theorem State.settle_perstN (s : State) : s.settle.watch.perstN = s.watch.perstN := s.settle_passes.watch.perstN

@[simp] theorem State.settle_held (s : State) : s.settle.watch.held = s.watch.held := s.settle_passes.watch.held

@[simp] theorem State.settle_pwrFailN (s : State) : s.settle.watch.pwrFailN = s.watch.pwrFailN := s.settle_passes.watch.pwrFailN

@[simp] theorem State.settle_straps (s : State) : s.settle.watch.straps = s.watch.straps := s.settle_passes.watch.straps

@[simp] theorem State.settle_gaz (s : State) : s.settle.watch.gaz = s.watch.gaz := s.settle_passes.watch.gaz

@[simp] theorem State.settle_watchLoaded (s : State) : s.settle.watch.watchLoaded = s.watch.watchLoaded := s.settle_passes.watch.watchLoaded

@[simp] theorem State.settle_tapIr (s : State) : s.settle.watch.tapIr = s.watch.tapIr := s.settle_passes.watch.tapIr

@[simp] theorem State.settle_smbusBusy (s : State) : s.settle.watch.smbusBusy = s.watch.smbusBusy := s.settle_passes.watch.smbusBusy

@[simp] theorem State.settle_smbusNack (s : State) : s.settle.watch.smbusNack = s.watch.smbusNack := s.settle_passes.watch.smbusNack

/-- A message under way stays so through the end of a step. -/
theorem State.settle_messaged (s : State) (w : Nat) (h : w ∈ s.dev.host.msixSent ∨ w ∈ s.dev.host.msixPending) :
    w ∈ s.settle.dev.host.msixSent ∨ w ∈ s.settle.dev.host.msixPending := s.settle_passes.messages w h

@[simp] theorem State.settle_slot (s : State) (n : Nat) : s.settle.dev.slot n = s.dev.slot n := by
  simp [Dev.slot]

end Sys2Proof.Machine
end

