-- ==== Sys2Proof/Laws/Mailbox.lean ====
section
/-! SUPPORT. What the acceptance of a mailbox command does, once for all of them: a command that is not next stays, one
that the general checks refuse fails, and one that they pass has its own body's effect and reply. -/

namespace Sys2Proof.Machine

/-! ## Slots -/

theorem Dev.slot_updSlot (d : Dev) (s n : Nat) (f : Slot → Slot) (hs : s < d.host.slots.length) :
    (d.updSlot s f).slot n = if n = s then f (d.slot s) else d.slot n := by
  simp only [Dev.slot, Dev.updSlot_host, List.getD_eq_getElem?_getD, List.getElem?_modify]
  by_cases h : n = s
  · subst h
    simp [List.getElem?_eq_getElem hs]
  · simp [h, Ne.symm h]

theorem Dev.slot_updSlot_ne (d : Dev) (s n : Nat) (f : Slot → Slot) (h : n ≠ s) : (d.updSlot s f).slot n = d.slot n := by
  simp [Dev.slot, List.getD_eq_getElem?_getD, Ne.symm h]

/-- A slot with a command in it exists. -/
theorem Dev.slot_exists (d : Dev) (s : Nat) (h : (d.cmdOf s).opcode ≠ 0) : s < d.host.slots.length := by
  rcases Nat.lt_or_ge s d.host.slots.length with hl | hl
  · exact hl
  · exfalso
    apply h
    simp [Dev.cmdOf, Dev.slot, List.getD_eq_getElem?_getD, List.getElem?_eq_none hl, Slot.reset, Cmd.opcode, Cmd.f, Cmd.w, fld]

theorem opcode_pos {n : Nat} (h : n ∈ opcodes) : n ≠ 0 := by
  rintro rfl
  revert h
  decide

/-! ## Replies -/

/-- The device with other messages. -/
def Dev.withMessages (d : Dev) (m p : List Nat) : Dev := { d with host := { d.host with msixSent := m, msixPending := p } }

theorem Dev.msix_sends (d : Dev) (v : Nat) : v ∈ (d.msix v).host.msixSent ∨ v ∈ (d.msix v).host.msixPending := by
  unfold Dev.msix
  split
  · left; simp
  · right
    simp only [Dev.onHost_host]
    split
    · assumption
    · simp

/-- What `finish` leaves: the slot holds the result, LAST_ERROR a failure's code, and with NOTIFY a message is under way. -/
theorem Dev.finish_eq (d : Dev) (s : Nat) (failed : Bool) (code : Nat) (resp : List Word) :
    ∃ m p, d.finish s failed code resp = (((d.updSlot s fun x =>
        { x with st := if failed then .failed else .done, error := BitVec.ofNat 8 code, resp := fit 64 0 resp,
                 partialWords := min 64 resp.length, progress := if failed then x.progress else 1000 }).onGs fun g =>
        { g with lastError := if failed then BitVec.ofNat 8 code else g.lastError })).withMessages m p ∧
      (bit (d.cmdWord s 0) 35 = true → 16 + s ∈ m ∨ 16 + s ∈ p) ∧
      (∀ w, w ∈ d.host.msixSent ∨ w ∈ d.host.msixPending → w ∈ m ∨ w ∈ p) := by
  unfold Dev.finish
  dsimp only
  cases hb : bit (d.cmdWord s 0) 35 with
  | false =>
    refine ⟨d.host.msixSent, d.host.msixPending, ?_, by simp, fun w hw => hw⟩
    simp [Dev.when, Dev.withMessages, Dev.onGs, Dev.updSlot, Dev.onHost]
  | true =>
    simp only [Dev.when, if_true]
    generalize hd : ((d.updSlot s _).onGs _ : Dev) = e
    obtain ⟨m, p, h⟩ := e.msix_frame (16 + s)
    refine ⟨m, p, h, fun _ => ?_, fun w hw => ?_⟩
    · have := e.msix_sends (16 + s)
      rw [h] at this
      exact this
    · have := e.msix_keeps (16 + s) w (by subst hd; simpa using hw)
      rw [h] at this
      exact this

/-- The result that a reply stands for. -/
def Reply.failed : Reply → Bool
  | .fail _ => true
  | _ => false

def Reply.code : Reply → Nat
  | .ok _ => eOk
  | .deferred .. => eDeferred
  | .fail f => f.code
  | .running => 0

def Reply.out : Reply → List Word
  | .ok l => l
  | .deferred t l => w36 t :: l
  | .fail f => f.words
  | .running => []

theorem Dev.reply_eq (d : Dev) (s : Nat) (r : Reply) (h : r ≠ .running) : d.reply s r = d.finish s r.failed r.code r.out := by
  cases r <;> first | rfl | exact absurd rfl h

/-! ## Unknown opcodes in the order of posted commands -/

/-- What stands before the first element that fails a test passes it. -/
theorem test_of_takeWhile {α : Type} {f : α → Bool} {l : List α} {x : α} (h : x ∈ l.takeWhile f) : f x = true := by
  induction l with
  | nil => cases h
  | cons y r ih =>
    rw [List.takeWhile_cons] at h
    split at h
    · rcases List.mem_cons.mp h with rfl | h
      · assumption
      · exact ih h
    · cases h

/-- A slot whose command ended for its opcode. -/
structure Dev.Turned (d e : Dev) (n : Nat) : Prop where
  st : (e.slot n).st = .failed
  error : (e.slot n).error = BitVec.ofNat 8 eOpcode
  resp : (e.slot n).resp = fit 64 0 (failAt eOpcode 0).words
  words : (e.slot n).partialWords = min 64 (failAt eOpcode 0).words.length
  tag : (e.slot n).tag = (d.slot n).tag
  notify : bit (d.cmdWord n 0) 35 = true → 16 + n ∈ e.host.msixSent ∨ 16 + n ∈ e.host.msixPending

/-- The slots that serving ends for their opcodes. -/
def Dev.skips (d : Dev) : List Nat := if d.serves then d.host.queue.takeWhile d.unknown else []

/-- What serving unknown opcodes does: those at the front of the queue end, and nothing else changes. -/
structure Dev.Skipped (d e : Dev) : Prop where
  gs : e.gs = { d.gs with lastError := e.gs.lastError }
  ring : e.ring = d.ring
  chans : e.chans = d.chans
  cal : e.cal = d.cal
  tb : e.tb = d.tb
  survey : e.survey = d.survey
  cap : e.cap = d.cap
  atlas : e.atlas = d.atlas
  fw : e.fw = d.fw
  queue : e.host.queue = if d.serves then d.host.queue.dropWhile d.unknown else d.host.queue
  slots : ∀ n, n ∉ d.skips → e.slot n = d.slot n
  turned : ∀ n ∈ d.skips, n < d.host.slots.length → d.Turned e n
  link : e.host.link = d.host.link
  table : e.host.msixTable = d.host.msixTable
  readValue : e.host.readValue = d.host.readValue
  aerCount : e.host.aerCount = d.host.aerCount
  messages : ∀ w, w ∈ d.host.msixSent ∨ w ∈ d.host.msixPending → w ∈ e.host.msixSent ∨ w ∈ e.host.msixPending

/-- Firmware serves commands by the operating state and the partitions alone. -/
theorem Dev.serves_congr {d e : Dev} (hg : e.gs.op = d.gs.op) (hf : e.fw = d.fw) : e.serves = d.serves := by
  simp [Dev.serves, Dev.partUp, Dev.part, hg, hf]

theorem Dev.unknown_congr {d e : Dev} (h : ∀ n, (e.slot n).cmd = (d.slot n).cmd) : e.unknown = d.unknown := by
  funext n
  have : e.cmdOf n = d.cmdOf n := by simp [Dev.cmdOf, h]
  rw [Dev.unknown, this, Dev.unknown]

/-- Nothing to serve. -/
theorem Dev.Skipped.none {d : Dev} (h : d.serves = true → d.host.queue.takeWhile d.unknown = []) : d.Skipped d := by
  have hs : d.skips = [] := by
    unfold Dev.skips
    split
    · exact h ‹_›
    · rfl
  have hq : d.host.queue = if d.serves then d.host.queue.dropWhile d.unknown else d.host.queue := by
    split
    · have := List.takeWhile_append_dropWhile (p := d.unknown) (l := d.host.queue)
      rw [h ‹_›, List.nil_append] at this
      exact this.symm
    · rfl
  constructor <;> first | rfl | exact hq | (intro n hn; rw [hs] at hn; cases hn) | exact fun _ _ => rfl | exact fun _ h => h

/-- One posted command fails for its opcode. -/
theorem Dev.skipOne (d : Dev) (s : Nat) :
    let e := (d.take s).reply s (.fail (failAt eOpcode 0))
    e = { d with gs := { d.gs with lastError := e.gs.lastError }, host := { d.host with
        queue := d.host.queue.drop 1, slots := e.host.slots, msixSent := e.host.msixSent, msixPending := e.host.msixPending } } ∧
      (∀ n, n ≠ s → e.slot n = d.slot n) ∧ (e.slot s).tag = (d.slot s).tag ∧ (e.slot s).cmd = (d.slot s).cmd ∧
      (s < d.host.slots.length → d.Turned e s) ∧ e.host.slots.length = d.host.slots.length ∧
      (∀ w, w ∈ d.host.msixSent ∨ w ∈ d.host.msixPending → w ∈ e.host.msixSent ∨ w ∈ e.host.msixPending) := by
  intro e
  obtain ⟨m, p, he, hn, hm⟩ := (d.take s).finish_eq s true (failAt eOpcode 0).code (failAt eOpcode 0).words
  replace he : e = _ := he
  clear_value e
  have hw : (d.take s).cmdWord s 0 = d.cmdWord s 0 := by
    rcases Nat.lt_or_ge s d.host.slots.length with hl | hl
    · simp [Dev.cmdWord, Dev.slot, List.getD_eq_getElem?_getD, List.getElem?_eq_getElem hl]
    · simp [Dev.cmdWord, Dev.slot, List.getD_eq_getElem?_getD, List.getElem?_eq_none hl]
  have hlen : (d.take s).host.slots.length = d.host.slots.length := by simp
  have hne : ∀ n, n ≠ s → e.slot n = d.slot n := fun n h => by
    rw [he]
    refine (Dev.slot_updSlot_ne _ _ _ _ h).trans ?_
    simp [Dev.slot, List.getD_eq_getElem?_getD, Ne.symm h]
  have hs : s < d.host.slots.length → e.slot s = { (d.take s).slot s with
      st := .failed, error := BitVec.ofNat 8 eOpcode, resp := fit 64 0 (failAt eOpcode 0).words,
      partialWords := min 64 (failAt eOpcode 0).words.length } := fun h => by
    rw [he]
    refine (Dev.slot_updSlot (d.take s) s s _ (hlen ▸ h)).trans ?_
    rw [if_pos rfl]
    rfl
  have ht : ((d.take s).slot s).tag = (d.slot s).tag ∧ ((d.take s).slot s).cmd = (d.slot s).cmd := by
    rcases Nat.lt_or_ge s d.host.slots.length with hl | hl
    · simp [Dev.slot, List.getD_eq_getElem?_getD, List.getElem?_eq_getElem hl]
    · simp [Dev.slot, List.getD_eq_getElem?_getD, List.getElem?_eq_none hl]
  have hx : s < d.host.slots.length ∨ e.slot s = d.slot s := by
    rcases Nat.lt_or_ge s d.host.slots.length with hl | hl
    · exact .inl hl
    · right; rw [he]; simp [Dev.slot, Dev.withMessages, List.getD_eq_getElem?_getD, List.getElem?_eq_none hl]
  refine ⟨by rw [he]; rfl, hne, ?_, ?_, fun h => ?_, by rw [he]; simp [Dev.withMessages], fun w h => by rw [he]; exact hm w h⟩
  · rcases hx with h | h
    · rw [hs h]; exact ht.1
    · rw [h]
  · rcases hx with h | h
    · rw [hs h]; exact ht.2
    · rw [h]
  · have h1 := hs h
    refine ⟨by rw [h1], by rw [h1], by rw [h1], by rw [h1], by rw [h1]; exact ht.1, fun hb => ?_⟩
    rw [he]
    exact hn (hw ▸ hb)

/-- Serving up to n commands, where the queue is no longer. -/
theorem Dev.serveSome_skipped (n : Nat) : ∀ d : Dev, d.host.queue.length ≤ n → d.Skipped (d.serveSome n) := by
  induction n with
  | zero => exact fun d h => .none fun _ => by simp [List.length_eq_zero_iff.mp (Nat.le_zero.mp h)]
  | succ n ih =>
    intro d hl
    unfold Dev.serveSome
    split
    · rename_i hq; exact .none fun _ => by simp [hq]
    · rename_i s rest hq
      split
      · rename_i hc
        simp only [Bool.and_eq_true] at hc
        obtain ⟨he, hne, htag, hcmd, hturn, hlen, hmsg⟩ := d.skipOne s
        generalize (d.take s).reply s (.fail (failAt eOpcode 0)) = e at *
        have hqe : e.host.queue = rest := by rw [he]; simp [hq]
        have hcmds : ∀ n, (e.slot n).cmd = (d.slot n).cmd := fun n => by
          by_cases h : n = s
          · rw [h]; exact hcmd
          · rw [hne n h]
        have htags : ∀ n, (e.slot n).tag = (d.slot n).tag := fun n => by
          by_cases h : n = s
          · rw [h]; exact htag
          · rw [hne n h]
        have hsv : e.serves = d.serves := Dev.serves_congr (by rw [he]) (by rw [he])
        have hu : e.unknown = d.unknown := Dev.unknown_congr hcmds
        have k := ih e (by rw [hqe]; rw [hq] at hl; simpa using hl)
        have hke : e.skips = rest.takeWhile d.unknown := by simp [Dev.skips, hsv, hc.1, hqe, hu]
        have hkd : d.skips = s :: rest.takeWhile d.unknown := by simp [Dev.skips, hc.1, hq, hc.2]
        refine ⟨?_, ?_, ?_, ?_, ?_, ?_, ?_, ?_, ?_, ?_, ?_, ?_, ?_, ?_, ?_, ?_, fun w h => k.messages w (hmsg w h)⟩
        · rw [k.gs, he]
        · rw [k.ring, he]
        · rw [k.chans, he]
        · rw [k.cal, he]
        · rw [k.tb, he]
        · rw [k.survey, he]
        · rw [k.cap, he]
        · rw [k.atlas, he]
        · rw [k.fw, he]
        · rw [k.queue, hsv, hqe, hu]; simp [hc.1, hq, hc.2]
        · intro n h
          rw [hkd, List.mem_cons, not_or] at h
          rw [k.slots n (by rw [hke]; exact h.2), hne n h.1]
        · intro n h hn
          by_cases hm : n ∈ e.skips
          · obtain ⟨a, b, c, w, t, f⟩ := k.turned n hm (hlen ▸ hn)
            exact ⟨a, b, c, w, t.trans (htags n), fun hb => f (by simpa [Dev.cmdWord, hcmds] using hb)⟩
          · have hs : n = s := by
              rw [hkd, List.mem_cons, ← hke] at h
              exact h.resolve_right hm
            subst hs
            obtain ⟨a, b, c, w, t, f⟩ := hturn hn
            have h1 := k.slots n hm
            exact ⟨h1 ▸ a, h1 ▸ b, h1 ▸ c, h1 ▸ w, h1 ▸ t, fun hb => k.messages _ (f hb)⟩
        · rw [k.link, he]
        · rw [k.table, he]
        · rw [k.readValue, he]
        · rw [k.aerCount, he]
      · rename_i hc
        refine .none fun hs => ?_
        have : d.unknown s = false := by simpa [hs] using hc
        simp [hq, this]

theorem Dev.serveUnknown_skipped (d : Dev) : d.Skipped d.serveUnknown := Dev.serveSome_skipped _ d (Nat.le_refl _)

/-! ## Acceptance -/

/-- A command that is not the next one changes nothing. -/
theorem State.accept_waits {s : State} {slot : SlotId} {m : MbCommand} (h : s.dev.next m.form slot = false) :
    s.accept slot m = s := by
  unfold State.accept
  simp [h]

/-- A command whose checks are passed has the effect and the reply of its body. -/
theorem State.accept_ready {s : State} {slot : SlotId} {m : MbCommand} (h : Ready s slot m) :
    s.accept slot m =
      let r := m.body { s with dev := s.dev.take slot } (s.dev.cmdOf slot)
      { r.1 with dev := (r.1.dev.reply slot r.2).serveUnknown } := by
  unfold State.accept
  simp only [h.next, if_true, h.legal]

/-- A command that the general checks refuse fails with their code; a fault in its words has the effect and the answer that
the command keeps for it. -/
theorem State.accept_refused {s : State} {slot : SlotId} {m : MbCommand} {f : Fail} (h : s.dev.next m.form slot = true)
    (hf : (s.dev.take slot).refusal m.form (s.dev.cmdOf slot) (m.faultsOf (s.dev.cmdOf slot)) = some f) :
    s.accept slot m =
      let d := s.dev.take slot
      let r := if f.code = eParam then (m.onFault d (s.dev.cmdOf slot), Reply.fail { f with resp := m.faultResp d })
        else (d, Reply.fail f)
      { s with dev := (r.1.reply slot r.2).serveUnknown } := by
  unfold State.accept
  simp only [h, if_true, hf]
  split <;> rfl

/-- The opcode of a slot whose command fits a form. -/
theorem Dev.next_opcode {d : Dev} {f : Form} {slot : Nat} (h : d.next f slot = true) : (d.cmdOf slot).opcode = f.opcode := by
  simp only [Dev.next, Bool.and_eq_true, Form.fits, beq_iff_eq] at h
  exact h.2.1

theorem Dev.take_slot (d : Dev) (s : Nat) (h : s < d.host.slots.length) : (d.take s).slot s = { d.slot s with st := .accepted } := by
  have := Dev.slot_updSlot (d.onHost fun x => { x with queue := x.queue.drop 1 }) s s (fun x => { x with st := .accepted }) h
  rw [if_pos rfl] at this
  exact this

theorem Dev.take_slot_ne (d : Dev) (s n : Nat) (h : n ≠ s) : (d.take s).slot n = d.slot n := by
  simp [Dev.slot, List.getD_eq_getElem?_getD, Ne.symm h]

/-- A reply to the command of a slot: the device is `u` but for LAST_ERROR, that slot's result and the messages. -/
structure Dev.Replied (u d : Dev) (slot : Nat) : Prop where
  parts : d = { u with gs := { u.gs with lastError := d.gs.lastError }, host := { u.host with
    slots := d.host.slots, msixSent := d.host.msixSent, msixPending := d.host.msixPending } }
  others : ∀ n, n ≠ slot → d.slot n = u.slot n
  cmd : (d.slot slot).cmd = (u.slot slot).cmd
  length : d.host.slots.length = u.host.slots.length

/-- From a reply onward: the unknown opcodes behind the command are served and the step ends. The reply's slot is as the
reply left it, and every part of the device but the command interface is that of the body's device. -/
theorem State.afterReply (s u : State) (slot : SlotId) (d : Dev) (hd : u.dev.Replied d slot)
    (hop : (s.dev.cmdOf slot).opcode ∈ opcodes) (hh : u.dev.host = (s.dev.take slot).host)
    (hpend : u.pending = s.pending) (hboot : u.boot = s.boot) (hrel : s.relay.Same u.relay) (hw : s.watch.Same u.watch) :
    let t := ({ u with dev := d.serveUnknown } : State).settle
    Holds t u.dev ∧ t.dev.slot slot = d.slot slot ∧
      (∀ w, w ∈ d.host.msixSent ∨ w ∈ d.host.msixPending → messaged t w) ∧ Served s t slot ∧ Outside s t := by
  obtain ⟨he, hne, hc, hl⟩ := hd
  have hk := d.serveUnknown_skipped
  generalize d.serveUnknown = g at hk
  intro t
  have hp : ({ u with dev := g } : State).Passes t := State.settle_passes _
  have hlen : slot.val < s.dev.host.slots.length := s.dev.slot_exists _ (opcode_pos hop)
  have hus : ∀ n, u.dev.slot n = (s.dev.take slot).slot n := fun n => by simp [Dev.slot, hh]
  have hds : ∀ n, n ≠ slot.val → d.slot n = s.dev.slot n := fun n h => by rw [hne n h, hus, Dev.take_slot_ne _ _ _ h]
  have hcmds : ∀ n, (d.slot n).cmd = (s.dev.slot n).cmd := fun n => by
    by_cases h : n = slot.val
    · rw [h, hc, hus, Dev.take_slot _ _ hlen]
    · rw [hds n h]
  have hu : d.unknown = s.dev.unknown := Dev.unknown_congr hcmds
  have hq : d.host.queue = s.dev.host.queue.drop 1 := by rw [he]; show u.dev.host.queue = _; rw [hh]; rfl
  have hts : ∀ n, t.dev.slot n = g.slot n := fun n => State.settle_slot _ n
  have htgs : t.dev.gs = g.gs := State.settle_gs _
  have htfw : t.dev.fw = g.fw := State.settle_fw _
  have hsv : t.dev.serves = d.serves := Dev.serves_congr (by rw [htgs, hk.gs]) (by rw [htfw, hk.fw])
  have hsk : d.skips = skipsOf s t (s.dev.host.queue.drop 1) := by simp only [Dev.skips, skipsOf, hsv, hq, hu]
  have hown : slot.val ∉ d.skips := fun h => by
    unfold Dev.skips at h
    split at h
    · have := test_of_takeWhile h
      rw [hu] at this
      simp only [Dev.unknown, Bool.not_eq_true', decide_eq_false_iff_not] at this
      exact this hop
    · cases h
  refine ⟨⟨?_, ?_, ?_, ?_, ?_, ?_, ?_, ?_, ?_⟩, (hts slot).trans (hk.slots _ hown),
    fun w h => State.settle_messaged _ _ (hk.messages w h), ⟨⟨?_, ?_⟩, ?_, ?_, ?_, ?_, ?_⟩,
    ⟨hp.pending.trans hpend, hp.boot.trans hboot, hrel.trans hp.relay, hw.trans hp.watch⟩⟩
  · rw [htgs, hk.gs, he]
  · exact (State.settle_ring _).trans (hk.ring.trans (by rw [he]))
  · exact (State.settle_chans _).trans (hk.chans.trans (by rw [he]))
  · exact (State.settle_cal _).trans (hk.cal.trans (by rw [he]))
  · exact (State.settle_tb _).trans (hk.tb.trans (by rw [he]))
  · exact (State.settle_survey _).trans (hk.survey.trans (by rw [he]))
  · exact (State.settle_cap _).trans (hk.cap.trans (by rw [he]))
  · exact (State.settle_atlas _).trans (hk.atlas.trans (by rw [he]))
  · exact htfw.trans (hk.fw.trans (by rw [he]))
  · have h1 : t.dev.host.queue = g.host.queue := State.settle_queue _
    rw [h1, hk.queue, hsv, hq, hu]
  · intro hs n hn hlt
    have hm : n ∈ d.skips := by rw [hsk, skipsOf, if_pos hs]; exact hn
    have hns : n ≠ slot.val := fun h => hown (h ▸ hm)
    have hld : n < d.host.slots.length := by rw [hl, hh]; simpa using hlt
    obtain ⟨a, b, c, w, q, f⟩ := hk.turned n hm hld
    refine ⟨by rw [hts]; exact a, by rw [hts]; exact b, by rw [hts]; exact c, by rw [hts]; exact w, nofun, ?_, fun hb => ?_⟩
    · rw [hts, q, hds n hns]
    · exact State.settle_messaged _ _ (f (by simpa [Dev.cmdWord, hcmds] using hb))
  · intro n h hn
    rw [hts, hk.slots n (by rw [hsk]; exact hn), hds n h]
  · exact (State.settle_link _).trans (hk.link.trans (by rw [he]; show u.dev.host.link = _; rw [hh]; rfl))
  · exact (State.settle_msixTable _).trans (hk.table.trans (by rw [he]; show u.dev.host.msixTable = _; rw [hh]; rfl))
  · exact (State.settle_readValue _).trans (hk.readValue.trans (by rw [he]; show u.dev.host.readValue = _; rw [hh]; rfl))
  · exact (State.settle_aerCount _).trans (hk.aerCount.trans (by rw [he]; show u.dev.host.aerCount = _; rw [hh]; rfl))

/-- What the state is that a mailbox command with the body's state `u` and a result ends in. -/
theorem State.ends (s u : State) (slot : SlotId) (r : Reply) (hr : r ≠ .running)
    (hop : (s.dev.cmdOf slot).opcode ∈ opcodes) (hh : u.dev.host = (s.dev.take slot).host)
    (hpend : u.pending = s.pending) (hboot : u.boot = s.boot) (hrel : s.relay.Same u.relay) (hw : s.watch.Same u.watch) :
    let t := ({ u with dev := (u.dev.reply slot r).serveUnknown } : State).settle
    Holds t u.dev ∧ Ended s t slot r.failed r.code r.out ∧ Served s t slot ∧ Outside s t := by
  have hlen : slot.val < s.dev.host.slots.length := s.dev.slot_exists _ (opcode_pos hop)
  have hlu : slot.val < u.dev.host.slots.length := by rw [hh]; simpa using hlen
  have hus : u.dev.slot slot = { s.dev.slot slot with st := .accepted } := by
    rw [← Dev.take_slot _ _ hlen]; simp [Dev.slot, hh]
  rw [Dev.reply_eq _ _ _ hr]
  obtain ⟨m, p, he, hn, hm⟩ := u.dev.finish_eq slot r.failed r.code r.out
  generalize u.dev.finish slot r.failed r.code r.out = d at he
  have hslot : ∀ n, d.slot n = if n = slot.val then _ else u.dev.slot n := fun n => by
    rw [he]; exact Dev.slot_updSlot u.dev slot n _ hlu
  have hfin := hslot slot
  rw [if_pos rfl, hus] at hfin
  have hd : u.dev.Replied d slot :=
    ⟨by rw [he]; rfl, fun n h => by rw [hslot n, if_neg h], by rw [hfin, hus], by rw [he]; simp [Dev.withMessages]⟩
  obtain ⟨h1, h2, h3, h4, h5⟩ := s.afterReply u slot d hd hop hh hpend hboot hrel hw
  refine ⟨h1, ?_, h4, h5⟩
  rw [hfin] at h2
  refine ⟨by rw [h2], by rw [h2], by rw [h2], by rw [h2], fun hf => by rw [h2]; simp [hf], by rw [h2], fun hb => h3 _ ?_⟩
  rw [he]
  exact hn (by simpa [Dev.cmdWord, hus] using hb)

/-- The same for a command that runs on. -/
theorem State.runs (s u : State) (slot : SlotId) (hop : (s.dev.cmdOf slot).opcode ∈ opcodes)
    (hh : u.dev.host = (s.dev.take slot).host) (hpend : u.pending = s.pending) (hboot : u.boot = s.boot)
    (hrel : s.relay.Same u.relay) (hw : s.watch.Same u.watch) :
    let t := ({ u with dev := (u.dev.reply slot .running).serveUnknown } : State).settle
    Holds t u.dev ∧ RunsOn s t slot ∧ Served s t slot ∧ Outside s t := by
  have hlen : slot.val < s.dev.host.slots.length := s.dev.slot_exists _ (opcode_pos hop)
  have hlu : slot.val < u.dev.host.slots.length := by rw [hh]; simpa using hlen
  have hus : u.dev.slot slot = { s.dev.slot slot with st := .accepted } := by
    rw [← Dev.take_slot _ _ hlen]; simp [Dev.slot, hh]
  have he : u.dev.reply slot .running = u.dev.updSlot slot fun x => { x with st := .running } := rfl
  generalize u.dev.reply slot .running = d at he
  have hslot : ∀ n, d.slot n = if n = slot.val then _ else u.dev.slot n := fun n => by
    rw [he]; exact Dev.slot_updSlot u.dev slot n _ hlu
  have hfin := hslot slot
  rw [if_pos rfl, hus] at hfin
  have hd : u.dev.Replied d slot :=
    ⟨by rw [he]; rfl, fun n h => by rw [hslot n, if_neg h], by rw [hfin, hus], by rw [he]; simp⟩
  obtain ⟨h1, h2, -, h4, h5⟩ := s.afterReply u slot d hd hop hh hpend hboot hrel hw
  rw [hfin] at h2
  exact ⟨h1, ⟨by rw [h2], by rw [h2], by rw [h2]⟩, h4, h5⟩

/-- A command whose body works on the device and answers at once completes. -/
theorem completes_of {i : Instr} {s : State} {slot : SlotId} {m : MbCommand} (he : exec i s = done (s.accept slot m))
    (h : Ready s slot m) (hop : m.form.opcode ∈ opcodes) (d : Dev) (r : Reply) (hr : r ≠ .running)
    (hb : m.body { s with dev := s.dev.take slot } (s.dev.cmdOf slot) = ({ s with dev := d }, r))
    (hh : d.host = (s.dev.take slot).host) : Completes i s slot d r.failed r.code r.out := by
  refine ⟨_, he, ?_⟩
  rw [State.accept_ready h]
  simp only [hb]
  exact s.ends { s with dev := d } slot r hr (by rw [Dev.next_opcode h.next]; exact hop) hh rfl rfl .refl .refl

/-- A command whose body works on the device and runs on. -/
theorem continues_of {i : Instr} {s : State} {slot : SlotId} {m : MbCommand} (he : exec i s = done (s.accept slot m))
    (h : Ready s slot m) (hop : m.form.opcode ∈ opcodes) (d : Dev)
    (hb : m.body { s with dev := s.dev.take slot } (s.dev.cmdOf slot) = ({ s with dev := d }, .running))
    (hh : d.host = (s.dev.take slot).host) : Continues i s slot d := by
  refine ⟨_, he, ?_⟩
  rw [State.accept_ready h]
  simp only [hb]
  exact s.runs { s with dev := d } slot (by rw [Dev.next_opcode h.next]; exact hop) hh rfl rfl .refl .refl

/-- `Completes` speaks of a device's parts but for the command interface and the signals. -/
theorem Completes.parts {i : Instr} {s : State} {slot : SlotId} {d e : Dev} {failed : Bool} {code : Nat} {resp : List Word}
    (h : Completes i s slot e failed code resp) (hp : { d with host := e.host, signals := e.signals } = e) :
    Completes i s slot d failed code resp := by
  obtain ⟨t, h1, h2, h3⟩ := h
  rw [← hp] at h2
  exact ⟨t, h1, ⟨h2.gs, h2.ring, h2.chans, h2.cal, h2.tb, h2.survey, h2.cap, h2.atlas, h2.fw⟩, h3⟩

theorem Continues.parts {i : Instr} {s : State} {slot : SlotId} {d e : Dev}
    (h : Continues i s slot e) (hp : { d with host := e.host, signals := e.signals } = e) : Continues i s slot d := by
  obtain ⟨t, h1, h2, h3⟩ := h
  rw [← hp] at h2
  exact ⟨t, h1, ⟨h2.gs, h2.ring, h2.chans, h2.cal, h2.tb, h2.survey, h2.cap, h2.atlas, h2.fw⟩, h3⟩

/-- A command whose body turns the accepted device into `e` and answers at once completes with any device `d` of the
same parts. -/
theorem completes_device {i : Instr} {s : State} {slot : SlotId} {m : MbCommand} (he : exec i s = done (s.accept slot m))
    (h : Ready s slot m) (hop : m.form.opcode ∈ opcodes) (d e : Dev) (r : Reply) (hr : r ≠ .running)
    (hb : m.body { s with dev := s.dev.take slot } (s.dev.cmdOf slot) = ({ s with dev := e }, r))
    (hh : e.host = (s.dev.take slot).host) (hp : { d with host := e.host, signals := e.signals } = e) :
    Completes i s slot d r.failed r.code r.out := (completes_of he h hop e r hr hb hh).parts hp

/-- The same for one that runs on. -/
theorem continues_device {i : Instr} {s : State} {slot : SlotId} {m : MbCommand} (he : exec i s = done (s.accept slot m))
    (h : Ready s slot m) (hop : m.form.opcode ∈ opcodes) (d e : Dev)
    (hb : m.body { s with dev := s.dev.take slot } (s.dev.cmdOf slot) = ({ s with dev := e }, .running))
    (hh : e.host = (s.dev.take slot).host) (hp : { d with host := e.host, signals := e.signals } = e) :
    Continues i s slot d := (continues_of he h hop e hb hh).parts hp

/-- The same for one whose body is a check and then a result. -/
theorem checked_device {i : Instr} {s : State} {slot : SlotId} {m : MbCommand} (he : exec i s = done (s.accept slot m))
    (h : Ready s slot m) (hop : m.form.opcode ∈ opcodes) (f : Option Fail) (d e : Dev) (r : Reply) (hr : r ≠ .running)
    (hfl : r.failed = false)
    (hb : m.body { s with dev := s.dev.take slot } (s.dev.cmdOf slot) =
      (let x := (s.dev.take slot).check f (fun _ => (e, r)); ({ s with dev := x.1 }, x.2)))
    (hh : e.host = (s.dev.take slot).host) (hp : { d with host := e.host, signals := e.signals } = e) :
    Checked i s slot f d r.code r.out := by
  cases f with
  | some x => exact completes_device he h hop s.dev (s.dev.take slot) (.fail x) (by simp) hb rfl rfl
  | none => have := completes_device he h hop d e r hr hb hh hp; rw [hfl] at this; exact this

/-- A check, and then work that runs on. -/
theorem started_device {i : Instr} {s : State} {slot : SlotId} {m : MbCommand} (he : exec i s = done (s.accept slot m))
    (h : Ready s slot m) (hop : m.form.opcode ∈ opcodes) (f : Option Fail) (d e : Dev)
    (hb : m.body { s with dev := s.dev.take slot } (s.dev.cmdOf slot) =
      (let x := (s.dev.take slot).check f (fun _ => (e, .running)); ({ s with dev := x.1 }, x.2)))
    (hh : e.host = (s.dev.take slot).host) (hp : { d with host := e.host, signals := e.signals } = e) :
    Started i s slot f d := by
  cases f with
  | some x => exact completes_device he h hop s.dev (s.dev.take slot) (.fail x) (by simp) hb rfl rfl
  | none => exact continues_device he h hop d e hb hh hp

/-- The response of AUTO_LEVEL counts free values on, and leaves everything else of the device as it is. -/
theorem Dev.levelAnswer_dev (l : List LevelSearch) : ∀ d : Dev,
    ∃ n, (d.levelAnswer l).2 = d.onGs fun g => { g with free := n } := by
  induction l with
  | nil => exact fun d => ⟨d.gs.free, rfl⟩
  | cons x l ih =>
    intro d
    by_cases h : x.skipped
    · obtain ⟨n, hn⟩ := ih d.nextFree.2
      exact ⟨n, by simp only [Dev.levelAnswer, h, if_true, hn]; rfl⟩
    · obtain ⟨n, hn⟩ := ih d
      exact ⟨n, by simp only [Dev.levelAnswer, h, hn]; rfl⟩

end Sys2Proof.Machine
end

