-- ==== Sys2Proof/Laws/Memory.lean ====
section
/-! SUPPORT. The capture store: reads after writes, and every operation on it keeps its canonical form. -/

namespace Sys2Proof.Machine

/-! ## Reads -/

/-- Below the least listed address nothing is listed. -/
theorem Mem.read_below {m : List (Nat × Word)} {x : Nat} (h : ∀ c ∈ m, x < c.1) : Mem.read m x = 0 := by
  induction m with
  | nil => rfl
  | cons c r ih =>
    have h1 := h c (by simp)
    unfold Mem.read
    rw [if_neg (by omega)]
    exact ih fun d hd => h d (by simp [hd])

theorem Mem.wf_tail {c : Nat × Word} {r : List (Nat × Word)} (h : Mem.wf (c :: r)) : Mem.wf r :=
  ⟨(List.pairwise_cons.1 h.1).2, fun d hd => h.2 d (by simp [hd])⟩

theorem Mem.wf_head {c : Nat × Word} {r : List (Nat × Word)} (h : Mem.wf (c :: r)) : ∀ d ∈ r, c.1 < d.1 :=
  (List.pairwise_cons.1 h.1).1

/-- A word reads as written; every other word stands. -/
theorem Mem.read_write (m : List (Nat × Word)) (x y : Nat) (v : Word) (h : Mem.wf m) :
    Mem.read (Mem.write m x v) y = if y = x then v else Mem.read m y := by
  induction m with
  | nil =>
    unfold Mem.write
    by_cases hv : v = 0
    · rw [if_pos hv]; by_cases hy : y = x
      · rw [if_pos hy, hv]; rfl
      · rw [if_neg hy]
    · rw [if_neg hv]
      show (if x = y then v else 0) = _
      by_cases hy : y = x
      · rw [if_pos hy, if_pos hy.symm]
      · rw [if_neg hy, if_neg (Ne.symm hy)]; rfl
  | cons c r ih =>
    obtain ⟨a, w⟩ := c
    have ht := Mem.wf_tail h
    have hh : ∀ d ∈ r, a < d.1 := Mem.wf_head h
    unfold Mem.write
    by_cases hxa : x < a
    · rw [if_pos hxa]
      have hbelow : Mem.read ((a, w) :: r) x = 0 := Mem.read_below (m := (a, w) :: r) fun d hd => by
        rcases List.mem_cons.1 hd with rfl | hd
        · exact hxa
        · exact Nat.lt_trans hxa (hh d hd)
      by_cases hv : v = 0
      · rw [if_pos hv]
        by_cases hy : y = x
        · rw [if_pos hy, hy, hbelow, hv]
        · rw [if_neg hy]
      · rw [if_neg hv]
        show (if x = y then v else Mem.read ((a, w) :: r) y) = _
        by_cases hy : y = x
        · rw [if_pos hy, if_pos hy.symm]
        · rw [if_neg hy, if_neg (Ne.symm hy)]
    · rw [if_neg hxa]
      by_cases hx : x = a
      · subst hx
        rw [if_pos rfl]
        by_cases hv : v = 0
        · rw [if_pos hv]
          by_cases hy : y = x
          · subst hy; rw [if_pos rfl, hv]; exact Mem.read_below hh
          · rw [if_neg hy]; show _ = (if x = y then w else Mem.read r y); rw [if_neg (Ne.symm hy)]
        · rw [if_neg hv]
          show (if x = y then v else Mem.read r y) = _
          by_cases hy : y = x
          · rw [if_pos hy, if_pos hy.symm]
          · rw [if_neg hy, if_neg (Ne.symm hy)]; show _ = (if x = y then w else Mem.read r y); rw [if_neg (Ne.symm hy)]
      · rw [if_neg hx]
        show (if a = y then w else Mem.read (Mem.write r x v) y) = if y = x then v else (if a = y then w else Mem.read r y)
        rw [ih ht]
        by_cases hy : y = x
        · subst hy; simp [Ne.symm hx]
        · simp [hy]

/-! ## The canonical form -/

theorem Mem.write_mem {m : List (Nat × Word)} {x : Nat} {v : Word} {c : Nat × Word} (h : c ∈ Mem.write m x v) :
    (c ∈ m ∨ c = (x, v) ∧ v ≠ 0) := by
  induction m with
  | nil =>
    unfold Mem.write at h
    by_cases hv : v = 0
    · rw [if_pos hv] at h; cases h
    · rw [if_neg hv] at h
      exact .inr ⟨List.mem_singleton.1 h, hv⟩
  | cons d r ih =>
    obtain ⟨a, w⟩ := d
    unfold Mem.write at h
    by_cases hxa : x < a
    · rw [if_pos hxa] at h
      by_cases hv : v = 0
      · rw [if_pos hv] at h; exact .inl h
      · rw [if_neg hv] at h
        rcases List.mem_cons.1 h with h | h
        · exact .inr ⟨h, hv⟩
        · exact .inl h
    · rw [if_neg hxa] at h
      by_cases hx : x = a
      · rw [if_pos hx] at h
        by_cases hv : v = 0
        · rw [if_pos hv] at h; exact .inl (by simp [h])
        · rw [if_neg hv] at h
          rcases List.mem_cons.1 h with h | h
          · exact .inr ⟨by rw [h, hx], hv⟩
          · exact .inl (by simp [h])
      · rw [if_neg hx] at h
        rcases List.mem_cons.1 h with h | h
        · exact .inl (by simp [h])
        · rcases ih h with h | h
          · exact .inl (by simp [h])
          · exact .inr h

theorem Mem.write_wf {m : List (Nat × Word)} (h : Mem.wf m) (x : Nat) (v : Word) : Mem.wf (Mem.write m x v) := by
  refine ⟨?_, fun c hc => ?_⟩
  · induction m with
    | nil =>
      unfold Mem.write
      split
      · exact List.Pairwise.nil
      · exact List.pairwise_singleton _ _
    | cons d r ih =>
      obtain ⟨a, w⟩ := d
      have hh : ∀ d ∈ r, a < d.1 := Mem.wf_head h
      have ht := Mem.wf_tail h
      unfold Mem.write
      by_cases hxa : x < a
      · rw [if_pos hxa]
        by_cases hv : v = 0
        · rw [if_pos hv]; exact h.1
        · rw [if_neg hv]
          refine List.pairwise_cons.2 ⟨fun c hc => ?_, h.1⟩
          rcases List.mem_cons.1 hc with rfl | hc
          · exact hxa
          · exact Nat.lt_trans hxa (hh c hc)
      · rw [if_neg hxa]
        by_cases hx : x = a
        · rw [if_pos hx]
          by_cases hv : v = 0
          · rw [if_pos hv]; exact ht.1
          · rw [if_neg hv]; exact List.pairwise_cons.2 ⟨hh, ht.1⟩
        · rw [if_neg hx]
          refine List.pairwise_cons.2 ⟨fun c hc => ?_, ih ht⟩
          rcases Mem.write_mem hc with hc | ⟨rfl, -⟩
          · exact hh c hc
          · show a < x; omega
  · rcases Mem.write_mem hc with hc | ⟨rfl, hv⟩
    · exact h.2 c hc
    · exact hv

theorem Mem.filter_wf {m : List (Nat × Word)} (h : Mem.wf m) (p : Nat × Word → Bool) : Mem.wf (m.filter p) :=
  ⟨h.1.filter _, fun c hc => h.2 c (List.mem_filter.1 hc).1⟩

theorem Mem.zero_wf {m : List (Nat × Word)} (h : Mem.wf m) (lo n : Nat) : Mem.wf (Mem.zero m lo n) := Mem.filter_wf h _

theorem zeroColumn_wf {m : List (Nat × Word)} (h : Mem.wf m) (base x : Nat) : Mem.wf (zeroColumn m base x) :=
  Mem.filter_wf h _

theorem Mem.writes_wf (ws : List Word) : ∀ {m : List (Nat × Word)}, Mem.wf m → ∀ x, Mem.wf (Mem.writes m x ws) := by
  induction ws with
  | nil => exact fun h _ => h
  | cons w r ih => exact fun h x => ih (Mem.write_wf h x w) _

theorem Mem.ringWrites_wf (base len c0 : Nat) (ws : List Word) :
    ∀ {m : List (Nat × Word)}, Mem.wf m → ∀ c, Mem.wf (Mem.ringWrites m base len c0 c ws) := by
  induction ws with
  | nil => exact fun h _ => h
  | cons w r ih => exact fun h c => ih (Mem.write_wf h _ w) _

theorem binAdd_wf {m : List (Nat × Word)} (h : Mem.wf m) (base : Nat) (p : Int × Int) : Mem.wf (binAdd base m p) :=
  Mem.write_wf h _ _

theorem putPixel_wf {m : List (Nat × Word)} (h : Mem.wf m) (format addr x rgb : Nat) :
    Mem.wf (putPixel m format addr x rgb) := by
  unfold putPixel
  split
  · exact Mem.write_wf h _ _
  · split
    · exact Mem.write_wf (Mem.write_wf h _ _) _ _
    · exact Mem.write_wf h _ _

theorem decayBins_wf {m : List (Nat × Word)} (h : Mem.wf m) (base shift : Nat) : Mem.wf (decayBins m base shift) := by
  have key : ∀ c d : Nat × Word, (if base ≤ c.1 ∧ c.1 < base + binWords then
      (if c.2.toNat - c.2.toNat / 2 ^ shift = 0 then none else some (c.1, w36 (c.2.toNat - c.2.toNat / 2 ^ shift)))
      else some c) = some d → d.1 = c.1 ∧ (c.2 ≠ 0 → d.2 ≠ 0) := by
    intro c d hd
    split at hd
    · split at hd
      · cases hd
      · rename_i hne
        cases hd
        refine ⟨rfl, fun _ hz => hne ?_⟩
        have hb : c.2.toNat - c.2.toNat / 2 ^ shift < 2 ^ 36 := Nat.lt_of_le_of_lt (Nat.sub_le _ _) c.2.isLt
        have := congrArg BitVec.toNat hz
        simp only [w36, BitVec.toNat_ofNat, BitVec.ofNat_eq_ofNat, Nat.mod_eq_of_lt hb] at this
        exact this
    · cases hd; exact ⟨rfl, id⟩
  refine ⟨?_, fun d hd => ?_⟩
  · unfold decayBins
    rw [List.pairwise_filterMap]
    refine h.1.imp fun {a b} hab x hx y hy => ?_
    rw [(key a x hx).1, (key b y hy).1]
    exact hab
  · obtain ⟨c, hc, hcd⟩ := List.mem_filterMap.1 hd
    exact (key c d hcd).2 (h.2 c hc)

theorem foldl_wf {α : Type} (f : List (Nat × Word) → α → List (Nat × Word)) (hf : ∀ m x, Mem.wf m → Mem.wf (f m x))
    (l : List α) : ∀ {m : List (Nat × Word)}, Mem.wf m → Mem.wf (l.foldl f m) := by
  induction l with
  | nil => exact fun h => h
  | cons x r ih => exact fun h => ih (hf _ _ h)

/-- The store is empty at reset. -/
theorem reset_mem_wf : Mem.wf State.reset.dev.cap.mem := ⟨List.Pairwise.nil, fun _ h => nomatch h⟩

end Sys2Proof.Machine
end

