-- ==== Sys2Proof/Machine/Pins.lean ====
section
/-! DEFINITION. The outputs of the part: when each is driven and when it is high-impedance or released (17 R398, R399; log 178). -/

namespace Sys2Proof.Machine

/-- The outputs. TDO comes with whether the TAP stands in Shift-DR or Shift-IR: the commands do not step the TAP. -/
inductive Output
  | clkout (k : Nat)
  | syncOut
  | calOut
  | trig (t : Nat)
  | dpMl (lane : Nat)
  | dpAux
  | onfi (channel : Nat)
  | alertN
  | faultN
  | tdo (shift : Bool)
  | peTx (lane : Nat)
  deriving DecidableEq, Repr

/-- The monitor of the pad's rail (R53, R398); none for VDD_AON. -/
def Output.rail : Output → Option Nat
  | .clkout _ => some monitorIo
  | .syncOut => some monitorIo
  | .calOut => some monitorIo
  | .trig _ => some monitorIo
  | .tdo _ => some monitorIo
  | .onfi _ => some 6
  | .dpMl _ => some 7
  | .dpAux => some 7
  | .peTx _ => some 7
  | .alertN => none
  | .faultN => none

/-- Outputs may be driven: the power is on, PERST_N is high, and the pad's rail is not below its range. -/
def Watch.padOn (w : Watch) (o : Output) : Bool := w.powered && w.perstPin && o.rail.all w.railUp

/-- The link of the Chart port is up or in training: with a sink, for the mode in force or for that of a mode change. -/
def Chart.trains (c : Chart) : Bool :=
  c.linkUp || (c.hpd && (c.mode != 0 || c.change.any fun m => m.step == 1 && m.needTrain))

/-- Lanes of the link that is up or trains. -/
def Chart.trainedLanes (c : Chart) : Nat :=
  match c.change with
  | some m => if m.step = 1 ∧ m.needTrain = true then m.lanes else c.lanes
  | none => c.lanes

/-- What drives each output at a time, once its pad may be driven. ALERT_N and FAULT_N are open-drain: driven low or
released. -/
def State.started (s : State) (time : Int) : Output → Bool
  | .clkout k => s.dev.clkout k time != .released
  | .syncOut => s.dev.tb.align.armed && !s.dev.tb.turnedAt ((time / 4096).toNat - s.dev.tb.tickCount)
  | .calOut => s.dev.cal.calOut
  | .trig t => (s.dev.survey.lines.getD t TrigLine.reset).dir == lineOut
  | .dpMl l => s.dev.cap.chart.trains && decide (l < s.dev.cap.chart.trainedLanes)
  | .dpAux => s.dev.cap.chart.trains
  | .onfi c => decide (c ∈ s.dev.atlas.ddr)
  | .alertN => s.watch.alert
  | .faultN => !s.watch.faultN
  | .tdo shift => shift
  | .peTx l => decide (l < s.watch.linkWidth)

/-- The output is driven at a time; else it is high-impedance or released (R399). -/
def State.drives (s : State) (time : Int) (o : Output) : Bool := s.watch.padOn o && s.started time o

end Sys2Proof.Machine
end

