-- ==== Sys2Proof/WellFormed.lean ====
section
/-! DEFINITION. The operands that a command can carry: numbers of channels, lines, taps, sources and the like
within the part's. -/

namespace Sys2Proof

def channelOk (c : Nat) : Bool := c < 96
def lineOk (l : Nat) : Bool := l < 5
def tapOk (d : Nat) : Bool := d < 1536

/-- A reading of a line: a tap beyond the entry zone (R63). -/
def LineCode.ok (k : LineCode) : Bool := lineOk k.line && 64 ≤ k.tap && tapOk k.tap

def optTapOk (d : Option Nat) : Bool := match d with | some x => tapOk x | none => true

/-- An observation of R90: d2 only with d1, d1 only with d0. -/
def Observation.ok (o : Observation) : Bool :=
  optTapOk o.d0 && optTapOk o.d1 && optTapOk o.d2 && (o.d2.isNone || o.d1.isSome) && (o.d1.isNone || o.d0.isSome)

/-- A flash target at one of the 4 chip enables of one of the 8 channels (R267), its geometry within GEOMETRY of
ATLAS_HEALTH. -/
def Target.ok (t : Target) : Bool :=
  t.channel < 8 && t.chipEnable < 4 && 1 ≤ t.planes && t.planes < 8 && t.blocksPerPlane < 2 ^ 20 &&
    t.factoryBad.all fun b => b < t.planes * t.blocksPerPlane

/-- The targets attached: at most one at each chip enable, so at most 32. -/
def targetsOk (l : List Target) : Bool := l.all Target.ok && decide ((l.map fun t => (t.channel, t.chipEnable)).Nodup)

/-- Where an error lies is a place of the part. -/
def EccPlace.ok (p : EccPlace) : Bool :=
  match p with
  | .tableEntry ch line => channelOk ch && lineOk line
  | .reducerSum ch => channelOk ch
  | .surveyMemory g => g < 31
  | .compassMemory => true
  | .captureWord a => a < 2 ^ 32
  | .resultRing => true
  | .atlasStaging _ _ => true
  | .traverseWord t _ => t < 256
  | .gazetteer o => o < 2 ^ 20
  | .otherSram => true

/-- 24 sensors (R414), each an 11-bit signed count. -/
def tempsOk (l : List Int) : Bool := l.length == 24 && l.all fun t => -1024 ≤ t && t ≤ 1023

def TickInputs.ok (t : TickInputs) : Bool := tempsOk t.temps && t.late.all fun g => g.group < 31

/-- The command's operands lie within the part. -/
def Instr.wellFormed (i : Instr) : Bool :=
  match i with
  | .atlasFormat _ targets => targetsOk targets
  | .atlasOpen _ targets => targetsOk targets
  | .selfTest _ fails bad => (fails.all fun t => t < 5) && bad.all channelOk
  | .renderStart b | .renderDone b => b < 16
  | .tvRcWrite t _ => t < 256
  | .erPendWrite k _ | .erPendRead k => k < 12
  | .erSrcCfgWrite n _ => n < 384
  | .comparatorAEdge x | .comparatorBEdge x => channelOk x.ch
  | .lineRead ch codes => channelOk ch && codes.all LineCode.ok
  | .refEdge codes | .syncMarker _ codes | .syncProbeReceived codes => codes.all LineCode.ok
  | .probeEcho first rest => (first :: rest).all LineCode.ok
  | .stampRetire ch _ _ | .stampCheck ch _ _ _ _ | .comparatorSettled ch _ _ _ | .digestClose ch => channelOk ch
  | .lutCandidateBuilt ch line hits obs =>
    decide (ch < 99) && lineOk line && (hits.all fun h => tapOk h.tap) && obs.all Observation.ok
  | .trigOutActive l | .trigOutInactive l | .trigEdge l _ _ => l < 8
  | .traverseCommit t => t < 256
  | .contourDecay m | .levelEyeStep m => m < 16
  | .thermalEvaluation temps => tempsOk temps
  | .frameTick inputs => inputs.ok
  | .eventSourceAssert n _ => n < 384
  | .monitorExcursion m _ | .latchPeriodEnd m => m < 16
  | .supplyFault m => m < 8
  | .partitionReady p | .partitionStuck p => p < 57
  | .eccError place _ => place.ok
  | .holdupMeasured code => code < 4096
  | .flashProgramDone ch _ _ | .flashReadDone ch _ _ => ch < 8
  | .smbusBlockWrite _ count _ _ _ => count < 256
  | .registerWrite w => w.bytes == 1 || w.bytes == 2 || w.bytes == 4 || w.bytes == 8
  | .identify _ | .getState _ | .resetPartition _ | .setPolicy _ | .getHealth _ | .setChannel _
  | .setLevels _ | .autoLevel _ | .autoLevelStepEnd | .autoLevelTrackCycle | .checkInput _
  | .getChannelStatus _ | .setTimebase _ | .setRefPolicy _ | .setClkout _ | .commitClocks _
  | .stepBearing _ | .setSpread _ | .getTimebase _ | .setGraticule _ | .defineItem _
  | .coefficientChunk _ | .deleteItem _ | .arm _ | .start _ | .hold _ | .resume _ | .stop _
  | .readReadings _ | .setResultRing _ | .getBudget _ | .calibrate _ | .setCalPolicy _ | .deskew _
  | .getCal _ | .freezeCal _ | .defineTraverse _ | .resizeTraverse _ | .deleteTraverse _
  | .freezeTraverse _ | .defineContour _ | .clearContour _ | .defineChartBuffer _ | .setChartMode _
  | .setLegend _ | .setCrcRect _ | .renderContour _ | .atlasAppendPolicy _ | .atlasRead _
  | .atlasFence _ | .atlasHealth _ | .atlasScrub _ | .scrubPass _ _ _ | .storeSettings _ | .loadSettings _
  | .updateFirmware _ | .activateFirmware _ | .getHoldup _ | .defineMask _ | .setTriggerRoute _
  | .forceTrigger _ | .alignArm _ | .alignMeasure _ | .alignApply _ | .alignApplyTimeout | .setMonitor _
  | .hostLoad | .mbCancel _ _ | .gsFlagsWrite _ _ | .wmLatchWrite _ _ | .erFaultWrite _ _
  | .erWakeWrite _ _ | .gsRingHrcWrite _ | .cpCommit _ | .erLostClear _ | .erClaimH | .erCompleteH _
  | .erCompleteFlush | .hostSleepChange _ | .smbusBlockRead _ | .alertResponse | .smbusTimeout
  | .gzBoardUpdate _ | .coarseMismatch | .stabilityEvaluation _ | .thermalHw
  | .refWindowEnd | .refAbsent | .refReturn | .refWalkEnd | .lockWindowEnd _ _ _ | .coarseWrap
  | .alignMeasureDone | .pwrFail
  | .pwrFailClear | .powerOnReset _ | .perstNAssert | .perstNRelease _ | .bootEnd | .watchdog
  | .memoryScrub _ | .ringCopyDone | .linkEvent _ | .chartFrameStart | .chartLatchPoint
  | .chartUnderrun _ _ | .hpdLoss | .hpdReturn _ | .hpdIrq _ | .ocxoWarmChange _ | .mbDoorbell _ _
  | .powerLoss | .gazetteerWriteDone _ | .imageDmaReadDone _ | .linkTrainingDone _ => true

end Sys2Proof
end

