-- ==== Sys2Proof/Tests/Slice0.lean ====
section
/-! SUPPORT. Tests: terms that WellFormed refuses, states that meet the hypotheses of the statements, clause by clause at
the ends of their ranges, and results with the values that the spec gives. -/

namespace Sys2Proof.Tests

set_option Elab.async false

open Sys2Proof Sys2Proof.Machine

/-! ## Small states -/

/-- Out of PERST_N with the counters running, in an operating state. -/
def live (o : OpState) : State :=
  { State.reset with
    watch := { Watch.reset with perstN := true }
    dev := { Dev.reset with gs := { Global.reset with op := o }, tb := { TimeBase.reset with running := true } } }

/-- `live .ready` with a change of its device. -/
def at_ (f : Dev → Dev) : State :=
  let s := live .ready
  { s with dev := f s.dev }

/-- A command's words posted in slot 0, at the head of the doorbell order. -/
def post (d : Dev) (ws : List Nat) : Dev :=
  d.onHost fun h => { h with queue := [0], slots := h.slots.modify 0 fun x => { x with st := .posted, cmd := fit 32 0 (ws.map w36) } }

def posted (o : OpState) (ws : List Nat) : State :=
  let s := live o
  { s with dev := post s.dev ws }

def after (s : State) (i : Instr) : State :=
  match exec i s with
  | .next t => t
  | _ => s

def isNext (r : Host.Outcome State Fault Refusal) : Bool :=
  match r with
  | .next _ => true
  | _ => false

def front (s : State) (i : Instr) : State := { s with pending := [i] }

/-- A frame tick at 25 °C. -/
def tick : TickInputs := { temps := List.replicate 24 200, late := [] }

/-- A gated frame. -/
def gatedFrame (n : Nat) : FrameInfo :=
  { frame := n, k := 16, tick := n * 65536, length := 65536, gated := true, stretch := n, runFrom := 0, leadIn := false, inRun := true, cold := false,
    unlocked := false, holdover := false, refStep := false, adapted := false, moved := false, lateGroups := [], lateAll := false,
    lateness := 0, noStamps := false, gen := 0, epoch := 0, selChanged := [], trig := [], forced := [], unpublished := true }

def emptyRec (n : Nat) : FrameRec :=
  { frame := n, stamps := [], mode := .quad, lostFifo := 0, lostCheck := 0, runtRej := 0, runtKept := 0, disagree := 0,
    lineStar := List.replicate 5 0, quadEdges := 0, stampCheck := 0, sorted := 0, unsettledA := false, unsettledB := false,
    settledA := true, settledB := true, switched := false, bankDown := false, saturated := false, calSlew := false, offPin := [],
    cfg := ChanCfg.reset, thrA := 5461, hysA := 10, thrB := 5461, settledAtEnd := true, temp := 200, ncoStep := 0, closed := false,
    digest := [], jitter := [], hist := [] }

/-- A settled comparator at LOW, in TRACK. -/
def settledComp : Comparator := { Comparator.reset with mode := .track, settled := true }

/-! ## Well-formed commands -/

/-- A suitable flash target of the highest channel, with a factory mark on its last block, and one of channel 0. -/
def flash7 : Target :=
  { channel := 7, chipEnable := 3, oneBit := true, qualified := true, pageKiB := 16, spare := 448, planes := 2, blocksPerPlane := 8
    pagesPerBlock := 64, ratedCycles := 10000, tProg := 300, tBers := 5000, factoryBad := [15] }

/-- One term for each check of WellFormed, each just outside it. -/
def illFormed : List Instr :=
  [.atlasFormat 0 [{ flash7 with channel := 8 }], .atlasOpen 0 [{ flash7 with chipEnable := 4 }], .atlasFormat 0 [flash7, flash7],
   .atlasFormat 0 [{ flash7 with planes := 0 }], .atlasFormat 0 [{ flash7 with planes := 8 }],
   .atlasFormat 0 [{ flash7 with blocksPerPlane := 2 ^ 20 }], .atlasFormat 0 [{ flash7 with factoryBad := [16] }],
   .refEdge [⟨5, 0, 64⟩], .syncMarker 0 [⟨0, 0, 63⟩], .syncProbeReceived [⟨0, 0, 1536⟩], .probeEcho ⟨0, 0, 1536⟩ [],
   .selfTest 0 [5] [], .selfTest 0 [] [96], .renderStart 16, .renderDone 16, .tvRcWrite 256 0, .erPendWrite 12 0, .erPendRead 12,
   .erSrcCfgWrite 384 0, .comparatorAEdge ⟨96, true, 0⟩, .comparatorBEdge ⟨96, true, 0⟩, .lineRead 96 [],
   .lineRead 0 [⟨5, 0, 64⟩], .lineRead 0 [⟨0, 0, 63⟩], .lineRead 0 [⟨0, 0, 1536⟩], .stampRetire 96 0 false,
   .stampCheck 96 0 true false 0, .comparatorSettled 96 false false 0, .digestClose 96, .lutCandidateBuilt 99 0 [] [],
   .lutCandidateBuilt 0 5 [] [], .lutCandidateBuilt 0 0 [⟨1536, 1⟩] [], .lutCandidateBuilt 0 0 [] [⟨0, none, some 5, none⟩],
   .lutCandidateBuilt 0 0 [] [⟨0, some 5, none, some 5⟩], .lutCandidateBuilt 0 0 [] [⟨0, some 1536, none, none⟩],
   .trigOutActive 8, .trigOutInactive 8, .trigEdge 8 true 0, .traverseCommit 256, .contourDecay 16, .levelEyeStep 16,
   .thermalEvaluation [], .thermalEvaluation (List.replicate 24 1024), .thermalEvaluation (List.replicate 24 (-1025)),
   .frameTick ⟨[], []⟩, .frameTick ⟨List.replicate 24 0, [⟨31, 0⟩]⟩, .eventSourceAssert 384 true, .monitorExcursion 16 0,
   .latchPeriodEnd 16, .supplyFault 8, .partitionReady 57, .partitionStuck 57, .eccError (.tableEntry 96 0) true,
   .eccError (.tableEntry 0 5) true, .eccError (.reducerSum 96) true, .eccError (.surveyMemory 31) true,
   .eccError (.captureWord (2 ^ 32)) true, .eccError (.traverseWord 256 0) true, .eccError (.gazetteer (2 ^ 20)) true, .holdupMeasured 4096, .flashProgramDone 8 false true,
   .flashReadDone 8 (.hard 0) .journal, .smbusBlockWrite 0 256 true 0 0, .registerWrite ⟨false, 0, 3, 0⟩]

theorem test_wellFormed_refuses : illFormed.all (fun i => !i.wellFormed) = true := by decide +kernel

theorem test_wellFormed_takes : (Instr.lineRead 95 [⟨4, 0, 64⟩, ⟨0, 0, 1535⟩]).wellFormed = true ∧
    (Instr.frameTick tick).wellFormed = true ∧ (Instr.atlasOpen 0 [flash7]).wellFormed = true ∧ (Instr.registerWrite ⟨true, 0, 8, 0⟩).wellFormed = true ∧
    (Instr.lutCandidateBuilt 0 4 [⟨1535, 1⟩] [⟨0, some 5, some 6, some 7⟩]).wellFormed = true := by decide +kernel

/-! ## The queue and statements about every command -/

theorem test_step_queue : (front (live .ready) .erClaimH).pending = [.erClaimH] ∧ State.reset.pending = [] ∧
    (after (front State.reset .erClaimH) .erClaimH).pending = [.erClaimH] := by decide +kernel

/-- A state between two steps other than that of reset, with an enabled entry of ER_WATCH, and a step from it. -/
def between : State :=
  let s := live .ready
  { s with watch := { s.watch with postedState := .ready, entries := s.watch.entries.set 31 ⟨341, 4, true⟩ }
           pending := [.gsFlagsWrite 1 0] }

theorem test_settled_steps : Settled between ∧ isNext (step between) = true := by
  refine ⟨⟨by decide, by decide, by decide, by decide, by decide, by decide, ?_, by decide +kernel, by decide +kernel, ?_⟩,
    by decide +kernel⟩
  · intro i hi e he
    subst he
    revert i
    decide +kernel
  · intro _ n x hx
    have h : ∀ y ∈ between.relay.sources, levelMet y.cfg.sense y.level = true → y.pend = true := by decide +kernel
    intro _ _ hl
    exact h x (List.mem_of_getElem? hx) hl

theorem test_relay_only_named : writesRelay (.gsFlagsWrite 1 0) = false ∧ isNext (exec (.gsFlagsWrite 1 0) (live .ready)) = true := by
  decide +kernel

theorem test_watch_only_named : writesWatch (.erClaimH) = false ∧ isNext (exec .erClaimH (live .ready)) = true := by decide +kernel

theorem test_store_only_named : writesStore (.digestClose 95) = false ∧ isNext (exec (.digestClose 95) (live .ready)) = true := by
  decide +kernel

/-- The first and the last word of the store are listed. -/
def stored : State := at_ fun d => d.onCap fun c => { c with mem := [(0, 1), (2 ^ 32 - 1, 0xFFFFFFFFF)] }

theorem test_store_canonical : Mem.wf stored.dev.cap.mem ∧ isNext (step (front stored (.frameTick tick))) = true := by decide +kernel

theorem test_flags_stay : resetsMain .erClaimH = false ∧ isNext (exec .erClaimH (live .ready)) = true := by decide +kernel

theorem test_frame_only_ticks : resetsMain .refAbsent = false ∧ isNext (exec .refAbsent (live .ready)) = true := by decide +kernel

theorem test_frame_advances : let s := live .ready
    s.watch.perstN = true ∧ s.dev.tb.running = true ∧ s.dev.tb.align.move = none ∧ s.dev.tb.returnDue = none ∧
    s.dev.fw.deferred = [] ∧ s.boot.running = false ∧ (after s (.frameTick tick)).dev.tb.frame = 1 ∧
    (after s (.frameTick tick)).dev.tb.tickCount = 65536 := by decide +kernel

/-- Two sources claimed, the upper one over the lower. -/
def claimedTwo : State :=
  let s := live .ready
  { s with relay := { s.relay with stack := [⟨316, 15, false⟩, ⟨0, 0, false⟩] } }

theorem test_stack_rises : claimedTwo.relay.stack.Pairwise (fun a b => b.prio < a.prio) ∧
    isNext (step (front claimedTwo (.erCompleteH 316))) = true := by decide +kernel

/-! ## Acceptance, doorbell and cancel -/

theorem test_waits_its_turn : mailboxOf (.identify 1) = some (1, mbIdentify) ∧
    (posted .ready [0x001]).dev.next mbIdentify.form 1 = false ∧ (posted .boot [0x001]).dev.next mbIdentify.form 0 = false := by
  refine ⟨rfl, by decide +kernel, by decide +kernel⟩

theorem test_refuses_header : let s := posted .ready [0x1001]
    s.dev.next mbIdentify.form 0 = true ∧ mbIdentify.form.badHeader (s.dev.cmdOf 0) = true ∧
    ((after s (.identify 0)).dev.slot 0).error = 0x11 := by decide +kernel

/-- SET_CAL_POLICY with a reserved bit at 1: word 1. -/
theorem test_refuses_parameter : let s := posted .ready [0x1402, 0x800000000]
    s.dev.next mbSetCalPolicy.form 0 = true ∧ mbSetCalPolicy.form.badHeader (s.dev.cmdOf 0) = false ∧
    leastFault (mbSetCalPolicy.faultsOf (s.dev.cmdOf 0)) = some 1 ∧
    ((after s (.setCalPolicy 0)).dev.slot 0).resp.head? = some 0x001000000 := by decide +kernel

theorem test_refuses_state : let s := posted .fault [0x305]
    s.dev.next mbStart.form 0 = true ∧ mbStart.form.badHeader (s.dev.cmdOf 0) = false ∧
    leastFault (mbStart.faultsOf (s.dev.cmdOf 0)) = none ∧ (s.dev.cmdOf 0).legalIn s.dev.judged = false ∧
    ((after s (.start 0)).dev.slot 0).st = .failed := by decide +kernel

/-- A CALIBRATE posted in slot 0 while another runs in slot 15. -/
def calibratingTwo : State :=
  let s := posted .ready [0x1401, 0x2fff]
  { s with dev := s.dev.updSlot 15 fun x => { x with st := .running, cmd := fit 32 0 [0x1401, 0x2fff] } }

theorem test_refuses_busy : let s := calibratingTwo
    s.dev.next mbCalibrate.form 0 = true ∧ mbCalibrate.form.badHeader (s.dev.cmdOf 0) = false ∧
    leastFault (mbCalibrate.faultsOf (s.dev.cmdOf 0)) = none ∧ (s.dev.cmdOf 0).legalIn s.dev.judged = true ∧
    (s.dev.take 0).excluded (s.dev.cmdOf 0) = true ∧ ((after s (.calibrate 0)).dev.slot 0).st = .failed := by decide +kernel

/-- Slot 15 filled with IDENTIFY, and with an opcode of no table. -/
def filled (w : Nat) (x : SlotState) : State :=
  at_ fun d => d.updSlot 15 fun y => { y with st := x, cmd := fit 32 0 [w36 w] }

theorem test_doorbell_posts : let s := filled 0x001 .failed
    s.open = true ∧ (s.dev.slot 15).st = .failed ∧ 15 < s.dev.host.slots.length ∧ (s.dev.cmdOf 15).opcode ∈ opcodes ∧
    ((after s (.mbDoorbell 15 0xFFFF)).dev.slot 15).st = .posted ∧ (after s (.mbDoorbell 15 0xFFFF)).dev.host.queue = [15] := by
  decide +kernel

theorem test_doorbell_unknown : let s := filled 0x0FF .free
    s.open = true ∧ (s.dev.slot 15).st = .free ∧ 15 < s.dev.host.slots.length ∧ (s.dev.cmdOf 15).opcode ∉ opcodes ∧
    s.dev.serves = true ∧ s.dev.host.queue = [] ∧ ((after s (.mbDoorbell 15 1)).dev.slot 15).error = 0x10 := by decide +kernel

/-- Slot 3 holds an opcode of no table, slots 0 and 15 IDENTIFY, in this order of the queue. -/
def ordered (order : List Nat) : State :=
  let s := posted .ready [0x001]
  { s with dev := ((s.dev.updSlot 3 fun x => { x with st := .posted, cmd := fit 32 0 [w36 0x0FF] }).updSlot 15 fun x =>
      { x with st := .posted, cmd := fit 32 0 [w36 0x001] }).onHost fun h => { h with queue := order } }

/-- Served at the front, the unknown opcode fails; behind a command that waits, or without COMPASS, it waits. -/
theorem test_order : let d := fun (o : List Nat) => (after (ordered o) (.mbDoorbell 7 1)).dev
    (d [3, 15]).host.queue = [15, 7] ∧ ((d [3, 15]).slot 3).error = 0x10 ∧ ((d [3, 15]).slot 15).st = .posted ∧
    (d [15, 3]).host.queue = [15, 3, 7] ∧ ((d [15, 3]).slot 3).st = .posted ∧
    (let c := after (ordered [0, 3, 15]) (.mbCancel 0 0)
     c.dev.host.queue = [15] ∧ (c.dev.slot 0).error = 0x16 ∧ (c.dev.slot 3).error = 0x10) ∧
    (let i := after (ordered [0, 3, 15]) (.identify 0)
     i.dev.host.queue = [15] ∧ (i.dev.slot 0).st = .done ∧ (i.dev.slot 3).error = 0x10 ∧ (i.dev.slot 15).st = .posted) ∧
    (let down := { ordered [3] with dev := (ordered [3]).dev.updPart partCompass fun x => { x with inReset := true } }
     (after down (.mbDoorbell 7 1)).dev.host.queue = [3, 7]) := by decide +kernel

theorem test_doorbell_ignored : State.reset.open = false ∧ ((filled 0x001 .running).dev.slot 15).st = .running ∧
    after (filled 0x001 .running) (.mbDoorbell 15 1) = (filled 0x001 .running).settle := ⟨by decide, by decide +kernel, rfl⟩

theorem test_cancel_posted : let s := posted .ready [0x001]
    s.open = true ∧ (s.dev.slot 0).tag = 0 ∧ (s.dev.slot 0).st = .posted ∧ (s.dev.cmdOf 0).opcode ∈ opcodes ∧
    ((after s (.mbCancel 0 0)).dev.slot 0).error = 0x16 ∧ (after s (.mbCancel 0 0)).dev.host.queue = [] := by decide +kernel

theorem test_cancel_running : let s := calibratingTwo
    s.open = true ∧ (s.dev.slot 15).tag = 0 ∧ (s.dev.slot 15).st ≠ .posted ∧ (s.dev.slot 15).busy = true := by decide +kernel

theorem test_cancel_ignored : let s := live .ready
    (s.dev.slot 15).tag = 0 ∧ (s.dev.slot 15).st ≠ .posted ∧ (s.dev.slot 15).busy = false ∧ (s.dev.slot 0).tag ≠ 0xFFFF := by
  decide +kernel

/-! ## Every mailbox command can be accepted -/

theorem test_ready_identify : Ready (posted .ready [1]) 0 mbIdentify := ⟨by decide +kernel, by decide +kernel⟩
theorem test_ready_getState : Ready (posted .ready [0x1002, 0]) 0 mbGetState := ⟨by decide +kernel, by decide +kernel⟩
theorem test_ready_resetPartition : Ready (posted .ready [0x1003, 0x140000000]) 0 mbResetPartition := ⟨by decide +kernel, by decide +kernel⟩
theorem test_ready_setPolicy : Ready (posted .ready [0x1004, 1]) 0 mbSetPolicy := ⟨by decide +kernel, by decide +kernel⟩
theorem test_ready_getHealth : Ready (posted .ready [0x1005, 3]) 0 mbGetHealth := ⟨by decide +kernel, by decide +kernel⟩
theorem test_ready_setChannel : Ready (posted .ready [0x2101, 0xbf7c00000, 0x1950]) 0 mbSetChannel := ⟨by decide +kernel, by decide +kernel⟩
theorem test_ready_setLevels : Ready (posted .ready [0x3102, 0xa1700000, 0x7778a0000, 0x8ca0a0000]) 0 mbSetLevels := ⟨by decide +kernel, by decide +kernel⟩
theorem test_ready_autoLevel : Ready (posted .ready [0x4103, 1, 0, 0, 0x648000000]) 0 mbAutoLevel := ⟨by decide +kernel, by decide +kernel⟩
theorem test_ready_checkInput : Ready (posted .ready [0x3104, 1, 0, 0]) 0 mbCheckInput := ⟨by decide +kernel, by decide +kernel⟩
theorem test_ready_getChannelStatus : Ready (posted .ready [0x1105, 0xbe0000000]) 0 (mbGetChannelStatus 8) := ⟨by decide +kernel, by decide +kernel⟩
theorem test_ready_setTimebase : Ready (posted .ready [0x1201, 1]) 0 mbSetTimebase := ⟨by decide +kernel, by decide +kernel⟩
theorem test_ready_setRefPolicy : Ready (posted .ready [0x1202, 0xfa1]) 0 mbSetRefPolicy := ⟨by decide +kernel, by decide +kernel⟩
theorem test_ready_setClkout : Ready (posted .ready [0x3203, 4, 0x100000, 0]) 0 mbSetClkout := ⟨by decide +kernel, by decide +kernel⟩
theorem test_ready_commitClocks : Ready (posted .ready [0x1204, 0xf]) 0 mbCommitClocks := ⟨by decide +kernel, by decide +kernel⟩
theorem test_ready_stepBearing : Ready (posted .ready [0x1205, 1]) 0 mbStepBearing := ⟨by decide +kernel, by decide +kernel⟩
theorem test_ready_setSpread : Ready (posted .ready [0x1206, 300 * 2048]) 0 mbSetSpread := ⟨by decide +kernel, by decide +kernel⟩
theorem test_ready_getTimebase : Ready (posted .ready [0x207]) 0 mbGetTimebase := ⟨by decide +kernel, by decide +kernel⟩
theorem test_ready_setGraticule : Ready (posted .ready [0x1301, 0x18]) 0 mbSetGraticule := ⟨by decide +kernel, by decide +kernel⟩
theorem test_ready_defineItem : Ready (posted .ready [0x15302, 0x4042000, 0x11fffff00, 0, 0, 0, 0, 0, 0, 0, 0, 0, 0, 0, 0, 0, 0, 0, 0, 0, 0, 0]) 0 mbDefineItem := ⟨by decide +kernel, by decide +kernel⟩
theorem test_ready_coefficientChunk : Ready (posted .ready [0x103302, 0x400000, 0xc, 5]) 0 mbCoefficientChunk := ⟨by decide +kernel, by decide +kernel⟩
theorem test_ready_deleteItem : Ready (posted .ready [0x1303, 0x20000000]) 0 mbDeleteItem := ⟨by decide +kernel, by decide +kernel⟩
theorem test_ready_arm : Ready (posted .ready [0x304]) 0 mbArm := ⟨by decide +kernel, by decide +kernel⟩
theorem test_ready_start : Ready (posted .ready [0x305]) 0 mbStart := ⟨by decide +kernel, by decide +kernel⟩
theorem test_ready_hold : Ready (posted .surveying [0x306]) 0 mbHold := ⟨by decide +kernel, by decide +kernel⟩
theorem test_ready_resume : Ready (posted .hold [0x307]) 0 mbResume := ⟨by decide +kernel, by decide +kernel⟩
theorem test_ready_stop : Ready (posted .armed [0x308]) 0 mbStop := ⟨by decide +kernel, by decide +kernel⟩
theorem test_ready_readReadings : Ready (posted .ready [0x1309, 0xffc000000]) 0 mbReadReadings := ⟨by decide +kernel, by decide +kernel⟩
theorem test_ready_setResultRing : Ready (posted .ready [0x530a, 0x30, 0, 0, 0, 0]) 0 mbSetResultRing := ⟨by decide +kernel, by decide +kernel⟩
theorem test_ready_getBudget : Ready (posted .ready [0x30b]) 0 mbGetBudget := ⟨by decide +kernel, by decide +kernel⟩
theorem test_ready_calibrate : Ready (posted .ready [0x1401, 0x2fff]) 0 mbCalibrate := ⟨by decide +kernel, by decide +kernel⟩
theorem test_ready_setCalPolicy : Ready (posted .ready [0x1402, 0x1028]) 0 mbSetCalPolicy := ⟨by decide +kernel, by decide +kernel⟩
theorem test_ready_deskew : Ready (posted .ready [0x4403, 0, 1, 0, 0]) 0 mbDeskew := ⟨by decide +kernel, by decide +kernel⟩
theorem test_ready_getCal : Ready (posted .ready [0x1404, 0x20000005f]) 0 mbGetCal := ⟨by decide +kernel, by decide +kernel⟩
theorem test_ready_freezeCal : Ready (posted .ready [0x1405, 1]) 0 mbFreezeCal := ⟨by decide +kernel, by decide +kernel⟩
theorem test_ready_defineTraverse : Ready (posted .ready [0x3501, 0xbe60000, 0x100000, 0x2710]) 0 mbDefineTraverse := ⟨by decide +kernel, by decide +kernel⟩
theorem test_ready_resizeTraverse : Ready (posted .ready [0x101502, 1]) 0 mbResizeTraverse := ⟨by decide +kernel, by decide +kernel⟩
theorem test_ready_deleteTraverse : Ready (posted .ready [0x1503, 0]) 0 mbDeleteTraverse := ⟨by decide +kernel, by decide +kernel⟩
theorem test_ready_freezeTraverse : Ready (posted .ready [0x1504, 0x4000000]) 0 mbFreezeTraverse := ⟨by decide +kernel, by decide +kernel⟩
theorem test_ready_defineContour : Ready (posted .ready [0xc601, 0, 0, 0, 0, 0, 0, 0, 0, 0, 0, 0, 0]) 0 mbDefineContour := ⟨by decide +kernel, by decide +kernel⟩
theorem test_ready_clearContour : Ready (posted .ready [0x1602, 0xffff]) 0 mbClearContour := ⟨by decide +kernel, by decide +kernel⟩
theorem test_ready_defineChartBuffer : Ready (posted .ready [0x1603, 0]) 0 mbDefineChartBuffer := ⟨by decide +kernel, by decide +kernel⟩
theorem test_ready_setChartMode : Ready (posted .ready [0x1604, 0x10]) 0 mbSetChartMode := ⟨by decide +kernel, by decide +kernel⟩
theorem test_ready_setLegend : Ready (posted .ready [0x2605, 0xff, 0x123456]) 0 mbSetLegend := ⟨by decide +kernel, by decide +kernel⟩
theorem test_ready_setCrcRect : Ready (posted .ready [0x2606, 0, 0]) 0 mbSetCrcRect := ⟨by decide +kernel, by decide +kernel⟩
theorem test_ready_renderContour : Ready (posted .ready [0x4607, 0xf000000, 0x20, 0x2000000, 0x100000]) 0 mbRenderContour := ⟨by decide +kernel, by decide +kernel⟩
theorem test_ready_atlasFormat : Ready (posted .ready [0x1701, 0x5a5]) 0 (mbAtlasFormat []) := ⟨by decide +kernel, by decide +kernel⟩
theorem test_ready_atlasOpen : Ready (posted .ready [0x1702, 0x10000]) 0 (mbAtlasOpen []) := ⟨by decide +kernel, by decide +kernel⟩
theorem test_ready_atlasAppendPolicy : Ready (posted .ready [0x2703, 0, 0]) 0 mbAtlasAppendPolicy := ⟨by decide +kernel, by decide +kernel⟩
theorem test_ready_atlasRead : Ready (posted .ready [0x5704, 0, 0, 1, 0, 0]) 0 mbAtlasRead := ⟨by decide +kernel, by decide +kernel⟩
theorem test_ready_atlasFence : Ready (posted .ready [0x705]) 0 mbAtlasFence := ⟨by decide +kernel, by decide +kernel⟩
theorem test_ready_atlasHealth : Ready (posted .ready [0x1706, 0x1e]) 0 mbAtlasHealth := ⟨by decide +kernel, by decide +kernel⟩
theorem test_ready_atlasScrub : Ready (posted .ready [0x1707, 1]) 0 mbAtlasScrub := ⟨by decide +kernel, by decide +kernel⟩
theorem test_ready_storeSettings : Ready (posted .ready [0x801]) 0 mbStoreSettings := ⟨by decide +kernel, by decide +kernel⟩
theorem test_ready_loadSettings : Ready (posted .ready [0x1802, 2]) 0 mbLoadSettings := ⟨by decide +kernel, by decide +kernel⟩
theorem test_ready_updateFirmware : Ready (posted .ready [0x4803, 0, 0, 0x60000, 2]) 0 mbUpdateFirmware := ⟨by decide +kernel, by decide +kernel⟩
theorem test_ready_activateFirmware : Ready (posted .ready [0x1804, 2]) 0 mbActivateFirmware := ⟨by decide +kernel, by decide +kernel⟩
theorem test_ready_getHoldup : Ready (posted .ready [0x805]) 0 mbGetHoldup := ⟨by decide +kernel, by decide +kernel⟩
theorem test_ready_defineMask : Ready (posted .ready [0x4901, 0x800000, 0, 0x800, 1]) 0 mbDefineMask := ⟨by decide +kernel, by decide +kernel⟩
theorem test_ready_setTriggerRoute : Ready (posted .ready [0x2902, 0x100, 0x19]) 0 mbSetTriggerRoute := ⟨by decide +kernel, by decide +kernel⟩
theorem test_ready_forceTrigger : Ready (posted .surveying [0x1903, 0xff]) 0 mbForceTrigger := ⟨by decide +kernel, by decide +kernel⟩
theorem test_ready_alignArm : Ready (posted .ready [0x1a01, 3]) 0 mbAlignArm := ⟨by decide +kernel, by decide +kernel⟩
theorem test_ready_alignMeasure : Ready (posted .ready [0x1a02, 0x14]) 0 mbAlignMeasure := ⟨by decide +kernel, by decide +kernel⟩
theorem test_ready_alignApply : Ready (posted .ready [0xa03]) 0 mbAlignApply := ⟨by decide +kernel, by decide +kernel⟩
theorem test_ready_selfTest : Ready (posted .ready [0x1f01, 0x1f]) 0 (mbSelfTest [1] [95]) := ⟨by decide +kernel, by decide +kernel⟩
theorem test_ready_setMonitor : Ready (posted .ready [0x2f02, 0xf8c000000, 0xfff0000]) 0 mbSetMonitor := ⟨by decide +kernel, by decide +kernel⟩

/-! ## Branches of accepted commands -/

def done_ (s : State) (i : Instr) : SlotState × BitVec 8 × Word :=
  let x := (after s i).dev.slot 0
  (x.st, x.error, x.resp.getD 0 0)

/-- IDENTIFY's first word: PART_ID 0x7E5A, 0x0960, grade (R8). -/
theorem test_identify_word : done_ (posted .ready [0x001]) (.identify 0) = (.done, 0x00, 0x7E5A09601) := by decide +kernel

/-- SET_TIMEBASE to SYNC at k = 16 waits for tick 1; with k above 20 it fails naming word 1. -/
theorem test_timebase_sync : done_ (posted .ready [0x1201, 2]) (.setTimebase 0) = (.done, 0x01, 1) ∧
    (let s := posted .ready [0x1201, 2]
     let t := { s with dev := s.dev.onTb fun t => { t with k := 21 } }
     t.dev.kAbove20 = true ∧ done_ t (.setTimebase 0) = (.failed, 0x11, 0x001000000)) := by decide +kernel

/-- SET_GRATICULE to k = 21 with REF_SRC = SYNC fails naming word 1; to k = 24 from frame 0 without SYNC it waits. -/
theorem test_graticule : (let s := posted .ready [0x1301, 21]
     let t := { s with dev := s.dev.onTb fun t => { t with cfg := { t.cfg with refSrc := 2 } } }
     done_ t (.setGraticule 0) = (.failed, 0x11, 0x001000000)) ∧
    done_ (posted .ready [0x1301, 24]) (.setGraticule 0) = (.done, 0x01, 256) := by decide +kernel

/-- DELETE_ITEM of an item that does not exist. -/
theorem test_deleteItem_missing : done_ (posted .ready [0x1303, 0xFFC000000]) (.deleteItem 0) = (.failed, 0x11, 0x001000000) := by
  decide +kernel

/-- COMMIT_CLOCKS at a frame 1 ahead fails naming word 2, 2 ahead it waits for that frame. -/
theorem test_commitClocks_ahead : done_ (posted .ready [0x3204, 1, 0, 1]) (.commitClocks 0) = (.failed, 0x11, 0x002000000) ∧
    done_ (posted .ready [0x3204, 1, 0, 2]) (.commitClocks 0) = (.done, 0x01, 2) := by decide +kernel

/-- LOAD_SETTINGS with no valid bank: E_NVM naming word 1. -/
theorem test_loadSettings_none : done_ (posted .ready [0x1802, 0]) (.loadSettings 0) = (.failed, 0x21, 0x001000000) := by
  decide +kernel

/-- CALIBRATE before TB_WARM without its leave: E_NOT_WARM. -/
theorem test_calibrate_cold : (done_ (posted .ready [0x1401, 0x0fff]) (.calibrate 0)).2.1 = 0x41 ∧
    (done_ (posted .ready [0x1401, 0x2fff]) (.calibrate 0)).1 = .running := by decide +kernel

/-- DEFINE_TRAVERSE takes the lowest pages, and a second one of its number fails naming word 1. -/
theorem test_defineTraverse : (let s := posted .ready [0x3501, 0xbe60000, 1, 0x2710]
     let t := after s (.defineTraverse 0)
     done_ s (.defineTraverse 0) = (.done, 0x01, 1) ∧ (t.dev.traverse 0).isSome = true ∧
     done_ { t with dev := post t.dev [0x3501, 0xbe60000, 1, 0x2710] } (.defineTraverse 0) =
       (.failed, 0x14, 0x001000000)) := by decide +kernel

/-- FREEZE_TRAVERSE and DELETE_TRAVERSE of a traverse that does not exist. -/
theorem test_traverse_missing : (done_ (posted .ready [0x1503, 0xFF0000000]) (.deleteTraverse 0)).2.1 = 0x11 ∧
    (done_ (posted .ready [0x1504, 0xFF4000000]) (.freezeTraverse 0)).2.1 = 0x11 := by decide +kernel

/-- ATLAS_FENCE, ATLAS_READ and ATLAS_SCRUB on a closed journal: E_STATE. On an open one with all programmed the fence
answers at once. -/
theorem test_fence : (done_ (posted .ready [0x705]) (.atlasFence 0)).2.1 = 0x12 ∧
    (done_ (posted .ready [0x5704, 0, 0, 1, 0, 0]) (.atlasRead 0)).2.1 = 0x12 ∧
    (done_ (posted .ready [0x1707, 1]) (.atlasScrub 0)).2.1 = 0x12 ∧
    (let s := posted .ready [0x705]
     (done_ { s with dev := s.dev.onAtlas fun a => { a with st := .open } } (.atlasFence 0)).1 = .done) := by decide +kernel

/-- STORE_SETTINGS while power fails: E_HOLDUP. Else the measurement runs for it. -/
theorem test_storeSettings : (let s := posted .ready [0x801]
     (done_ { s with watch := { s.watch with pwrFailN := false } } (.storeSettings 0)).2.1 = 0x20) ∧
    (done_ (posted .ready [0x801]) (.storeSettings 0)).1 = .running := by decide +kernel

/-- MERIDIAN, partition 56, is never reset alone. -/
theorem test_meridian : let s := posted .ready [0x1003, 56 * 2 ^ 30]
    Ready s 0 mbResetPartition ∧ (s.dev.cmdOf 0).f 1 35 30 = partMeridian ∧ (done_ s (.resetPartition 0)).2.1 = 0x12 :=
  ⟨⟨by decide +kernel, by decide +kernel⟩, by decide +kernel, by decide +kernel⟩

/-- RESET_PARTITION of FE bank 0 runs; PARTITION_READY ends it with generation 1. -/
theorem test_partition_runs : let s := after (posted .ready [0x1003, 0]) (.resetPartition 0)
    (s.dev.slot 0).st = .running ∧ (s.dev.part 0).inReset = true ∧ (s.dev.fw.partRuns.map PartRun.part) = [0] ∧
    done_ s (.partitionReady 0) = (.done, 0x00, 1) ∧ (after s (.partitionStuck 0)).dev.gs.faultCode = 0x12 := by decide +kernel

/-- POWER_DOWN of a Survey group, a reset of COMPASS, and a group that THERMAL_HW holds in reset: it does not become ready. -/
theorem test_partition_actions : let p := partSurvey 0
    let hot := after (after (posted .ready [0x1003, p * 2 ^ 30]) (.resetPartition 0)) .thermalHw
    (done_ (posted .ready [0x1003, p * 2 ^ 30 + 1]) (.resetPartition 0)).1 = .running ∧
    (done_ (posted .ready [0x1003, p * 2 ^ 30 + 2]) (.resetPartition 0)).1 = .done ∧
    (done_ (posted .ready [0x1003, partCompass * 2 ^ 30]) (.resetPartition 0)).1 = .done ∧
    (done_ (posted .ready [0x1003, partHost * 2 ^ 30]) (.resetPartition 0)).1 = .running ∧
    hot.dev.heldByHw p = true ∧ ((after hot (.partitionReady p)).dev.part p).inReset = true ∧
    hot.dev.heldByHw partCompass = false := by decide +kernel

/-- RESET_PARTITION in slot 0, with IDENTIFY waiting in slot 15. -/
def resetting (p : Nat) : State :=
  let s := ordered [0, 15]
  { s with dev := s.dev.updSlot 0 fun x => { x with cmd := fit 32 0 [0x1003, w36 (p * 2 ^ 30)] } }

/-- A reset of COMPASS ends what else is posted; one of FE bank 0 with nothing to end leaves the other slots. -/
theorem test_partition_others : let reset := fun (p : Nat) => after (resetting p) (.resetPartition 0)
    (reset partCompass).dev.host.queue = [] ∧ ((reset partCompass).dev.slot 15).error = BitVec.ofNat 8 ePartReset ∧
    ((reset partCompass).dev.slot 0).st = .done ∧ ((reset partCompass).dev.slot 7).st = .free ∧
    (reset 0).dev.host.queue = [15] ∧ ((reset 0).dev.slot 15).st = .posted ∧
    (live .ready).dev.slotsUsing 0 = [] ∧ (live .ready).dev.atlas.scrubs = [] ∧ (live .ready).boot.update = none := by
  decide +kernel

/-- SELF_TEST: test 1 failed, test 2 with channel 95, the rest passed: one test a tick, after test 2 no comparator settled,
and after the fifth the answer. -/
theorem test_selfTest : let d0 := (after (posted .ready [0x1f01, 0x1f]) (.selfTest 0 [1] [95])).dev
    let d2 := d0.testTick.testTick
    let d5 := d2.testTick.testTick.testTick
    (d0.slot 0).st = .running ∧ d0.fw.selfTests.map TestRun.results = [[]] ∧ d2.fw.selfTests.map TestRun.results = [[0, 1]] ∧
    (d2.testTick.chans.all fun y => !y.a.settled && !y.b.settled) = true ∧ d5.fw.selfTests = [] ∧
    ((d5.slot 0).st, (d5.slot 0).error, (d5.slot 0).resp.getD 0 0) = (.done, 0x00, 0x110) := by decide +kernel

/-- A cancelled SELF_TEST ends before its next test. -/
theorem test_selfTest_cancel : let d := (after (posted .ready [0x1f01, 0x1f]) (.selfTest 0 [] [])).dev.onFw fun w =>
      { w with selfTests := w.selfTests.map fun r => { r with cancelled := true } }
    (d.testTick.slot 0).error = 0x16 ∧ d.testTick.fw.selfTests = [] ∧
    (⟨0, 31, [], [], [0], false⟩ : TestRun).words.headD 0 = 0x22220 := by decide +kernel

/-- ACTIVATE_FIRMWARE of a slot without an image: E_AUTH naming word 1. -/
theorem test_activate_none : done_ (posted .ready [0x1804, 2]) (.activateFirmware 0) = (.failed, 0x70, 0x001000000) := by
  decide +kernel

/-- SET_CHART_MODE from OFF to OFF answers; to mode 1 without a sink it fails with E_LINK. -/
theorem test_chartMode : (done_ (posted .ready [0x1604, 0x10]) (.setChartMode 0)).1 = .done ∧
    (let s := posted .ready [0x1604, 0x11]
     let t := { s with dev := s.dev.onChart fun c => { c with staged := ⟨0, 1024, 0⟩, buffers := [⟨0, 1024, 768, 0, 0, 1024, 1024⟩] } }
     t.dev.cap.chart.addrOk 1 t.dev.cap.chart.staged = true ∧ (done_ t (.setChartMode 0)).2.1 = 0x60) := by decide +kernel

/-! ## Registers of the host and the relay -/

/-- Written 1 and set by hardware in the same cycle: the bit stays and the collision counts (R25). -/
theorem test_flags_collision : (after (live .ready) (.gsFlagsWrite 0x1005 0x1004)).dev.gs.flags = 0x1004 ∧
    (after (live .ready) (.gsFlagsWrite 0x1005 0x1004)).dev.gs.flagsAgain = 2 ∧ State.reset.open = false ∧
    (live .ready).open = true := by decide +kernel

/-- WM_LATCH of a STICKY and of a PERIOD monitor, both BELOW. -/
theorem test_wmLatch : let w := { Watch.reset with monitors := Watch.reset.monitors.mapNum fun m (x : Monitor) =>
      if m = 0 then { x with state := 1, belowSeen := true }
      else if m = 15 then { x with state := 1, period := true, belowSeen := true } else { x with belowSeen := true } }
    ((w.latchWrite 0x8003 0x8002).monitors.map Monitor.belowSeen).take 3 = [true, true, true] ∧
    (w.latchWrite 0x8003 0).monitors.map Monitor.belowSeen =
      [true, false] ++ List.replicate 14 true ∧ (w.latchWrite 0x8003 0x8002).latchAgain = 1 := by decide +kernel

/-- A host write of TV_RC: below RC, above WC, between (R233). -/
theorem test_tvRc : let t := (after (posted .ready [0x3501, 0xbe60000, 1, 0x2710]) (.defineTraverse 0)).dev.traverse 0
    (t.map fun x => ({ x with wc := 10, rc := 5 }.writeRc 4).rc) = some 5 ∧
    (t.map fun x => ({ x with wc := 10, rc := 5 }.writeRc 11).rc) = some 10 ∧
    (t.map fun x => ({ x with wc := 10, rc := 5 }.writeRc 7).rc) = some 7 := by decide +kernel

/-- A ring batch of two words and a link that is up: HWC advances and the lanes go out; with the link down it drops. -/
def copying (up : Bool) : State := at_ fun d =>
  (d.onHost fun h => { h with link := { LinkState.reset with linkUp := up, busMaster := up } }).onRing fun r =>
    { r with jobs := [⟨[1, 2], 1, 0⟩] }

theorem test_ring : (after (copying true) .ringCopyDone).dev.ring.hwc = 2 ∧ (after (copying false) .ringCopyDone).dev.ring.hwc = 0 ∧
    (after (copying false) .ringCopyDone).dev.ring.dropBatches = 1 ∧ (live .ready).dev.ring.jobs = [] := by decide +kernel

/-- A host that is awake. -/
def awake : State := at_ fun d =>
  d.onHost fun h => { h with link := { LinkState.reset with linkUp := true, busMaster := true, msixEnable := true } }

/-- A source of the host, deliverable to H at priority 15. -/
def claimable : Source :=
  { Source.reset with cfg := { SrcCfg.reset with prio := 15, sense := 1, targets := 16, hostOwned := true }, pend := true,
                      masked := false }

/-- Source 383 is deliverable. -/
def deliverable : State :=
  let s := awake
  { s with relay := { s.relay with sources := s.relay.sources.set 383 claimable } }

/-- A claim returns source 383 and pushes it; its completion pops it; completing another is an order fault. -/
theorem test_claim : let s := deliverable
    let t := after s .erClaimH
    (s.relay.sources[383]?.map fun x => s.relay.deliverable false x) = some true ∧
    t.relay.stack = [⟨383, 15, false⟩] ∧ (t.relay.source 383).pend = false ∧
    fld t.dev.host.readValue 8 0 = 383 ∧ (after t (.erCompleteH 383)).relay.stack = [] ∧
    (after t (.erCompleteH 0x10000)).relay.stack = [] ∧ (after t (.erFaultWrite 0 0x17F1)).relay.badSource = 383 ∧
    (after t (.erCompleteH 382)).relay.order = true ∧ (after t (.erCompleteH 382)).relay.faultCount = 1 ∧
    (after t .erCompleteFlush).relay.stack = [] ∧
    (awake.relay.sources.all fun x => !awake.relay.deliverable false x) = true ∧ linkAsleep awake.dev.host.link = false ∧
    (after awake .erClaimH).dev.host.readValue = 0x8000 := by decide +kernel

/-- ER_SRC_CFG with the reserved SENSE 6 keeps SENSE; a source of firmware is left alone. -/
theorem test_srcCfg : ((after deliverable (.erSrcCfgWrite 383 0x1063)).relay.source 383).cfg.sense = 1 ∧
    ((after deliverable (.erSrcCfgWrite 383 0x1053)).relay.source 383).cfg.sense = 5 ∧
    ((after deliverable (.erSrcCfgWrite 0 0x1053)).relay.source 0).cfg = SrcCfg.reset := by decide +kernel

/-- ER_PEND[11] read and written 0: the first clear loses an event that the shadow does not hold. -/
theorem test_pend : let t := after deliverable (.erPendRead 11)
    t.dev.host.readValue = 0x80000000 ∧ ((after deliverable (.erPendWrite 11 0)).relay.source 383).lost = 1 ∧
    ((after t (.erPendWrite 11 0)).relay.source 383).lost = 0 ∧
    ((after (after deliverable (.erPendWrite 11 0)) (.erLostClear 0x17F)).relay.source 383).lost = 0 ∧
    ((after (after deliverable (.erPendWrite 11 0)) (.erLostClear 0x200)).relay.source 383).lost = 0 := by decide +kernel

/-- BAR0 with 4 bytes is logged; BAR2 reaches chart buffers only; MB_CMD of a FREE slot takes the word, of a POSTED one not. -/
def withBuffer : State := at_ fun d => d.onChart fun c => { c with buffers := [⟨15, 64, 16, 0, 0x1000, 1, 16⟩] }

theorem test_registerWrite : (after (live .ready) (.registerWrite ⟨false, 0x1100, 4, 0⟩)).dev.host.aerCount = 1 ∧
    withBuffer.dev.hostWritable 0x1000 = true ∧ withBuffer.dev.hostWritable 0x1FFF = true ∧
    withBuffer.dev.hostWritable 0xFFF = false ∧ withBuffer.dev.hostWritable 0x2000 = false ∧
    (after withBuffer (.registerWrite ⟨true, 0xFFF8, 8, 7⟩)).dev.cap.mem = [(0x1FFF, 7)] ∧
    (((live .ready).writeBar0 0x11F8 5).dev.slot 0).cmd.getD 31 0 = 5 := by decide +kernel

/-- ER_MASK of a host source, FLOOR_H, an entry of ER_WATCH, an MSI-X table word, and the Chart's registers. -/
theorem test_registers : let s := live .ready
    ((deliverable.writeBar0 (0x8C80 + 8 * 11) 0x80000000).relay.source 383).masked = true ∧
    (s.writeBar0 0x9010 0x70).relay.floor = 7 ∧
    (s.writeBar0 0x91F8 0x1855).watch.entries.getD 31 WatchEntry.reset = ⟨0x55, 4, true⟩ ∧
    (s.writeBar0 0xC000 7).dev.host.msixTable.getD 0 0 = 4 ∧ (s.writeBar0 0xC3F8 7).dev.host.msixTable.getD 127 0 = 7 ∧
    s.chartOpen = true ∧ (s.writeBar0 0x6000 0x5503).dev.cap.chart.check = 0x55 ∧
    (s.writeBar0 0x6010 9).dev.cap.chart.staged.addr = 9 ∧ (s.writeBar0 0x6040 5).dev.cap.chart.bg = 5 ∧
    (s.writeBar0 0x60F8 5).dev.cap.chart.crcExpect.getD 7 0 = 5 := by decide +kernel

/-- The link's width: at most what it has, and what PE_WIDTH allows. -/
theorem test_linkWidth : let t := fun (n : Nat) => (after (live .ready) (.hostSleepChange { LinkState.reset with linkUp := true, lanes := n })).dev.host.link.lanes
    t 8 = 8 ∧ t 7 = 4 ∧ t 3 = 1 ∧ t 0 = 0 ∧
    (after (live .ready) (.hostSleepChange { LinkState.reset with lanes := 8 })).dev.host.link.lanes = 0 := by decide +kernel

theorem test_registerWrite_dropped : after withBuffer (.registerWrite ⟨true, 0x7FF8, 8, 7⟩) = withBuffer.settle ∧
    (posted .ready [1]).writeBar0 0x11F8 5 = posted .ready [1] := ⟨rfl, rfl⟩

theorem test_cpCommit : (live .ready).chartOpen = true ∧ State.reset.chartOpen = false ∧
    (after (live .ready) (.cpCommit 0)) = (live .ready).settle := ⟨by decide, by decide, rfl⟩

/-- SMBus: a block write of ER_WATCH[31], of 7 bytes, and of no register; reads in an unpowered domain. -/
theorem test_smbus : (after State.reset (.smbusBlockWrite 0x5F 8 true 0xC155 0)).watch.entries.getD 31 WatchEntry.reset ≠
      WatchEntry.reset ∧
    (after State.reset (.smbusBlockWrite 0x5F 7 true 0xC155 0)).watch.entries = State.reset.watch.entries ∧
    (after State.reset (.smbusBlockWrite 0x60 8 true 0xC155 0)).watch.entries = State.reset.watch.entries ∧
    State.reset.watch.powered = true ∧
    (after State.reset (.smbusBlockWrite 0x5F 7 true 0xC155 0)).watch.smbusNack = true ∧
    (after State.reset (.smbusBlockWrite 0x5F 8 true 0xC155 0)).watch.smbusNack = false ∧
    (let a := { State.reset with watch := { State.reset.watch with alert := true } }
     (after a .alertResponse).dev.host.readValue = 0x40 ∧ (after a .alertResponse).watch.alert = false) ∧
    (after { State.reset with watch := { State.reset.watch with powered := false } } (.smbusBlockRead 0)).dev.host.readValue = 0 := by
  decide +kernel

/-- SMBus reads of status, hold-up, WM_MODE (its reset value), WM_CFG[15] and ER_WATCH[31]; writes of WM_LATCH and
ER_WAKE clear what they name. -/
theorem test_smbus_values : let s := { State.reset with watch := { State.reset.watch with
      holdupResult := (11000, 0, 0, 0), seen := 0x80000001
      monitors := Watch.reset.monitors.modify 15 fun x => { x with belowSeen := true } } }
    let read := fun (n : Nat) => ((after s (.smbusBlockRead (BitVec.ofNat 8 n))).dev.host.readValue).toNat
    read 0x02 % 8 = 6 ∧ read 0x03 = 11000 ∧ read 0x11 = 0x8000 ∧ read 0x12 = 0 ∧
    read 0x13 = 0xFF0000AAAA ∧ read 0x2F = 20 * 2 ^ 29 + 0xFFF * 2 ^ 16 ∧ read 0x30 = 0x80000001 ∧ read 0x5F = 0 ∧
    read 0x10 / 2 ^ 32 = 0 ∧ read 0x60 = 0 ∧ read 0x00 = 0 ∧
    (after s (.smbusBlockWrite 0x30 8 true 1 0)).watch.seen = 0x80000000 ∧
    ((after s (.smbusBlockWrite 0x11 8 true 0x8000 0)).watch.monitor 15).belowSeen = false ∧
    (after s (.smbusBlockWrite 0x60 8 true 0x8000 0)).watch.seen = 0x80000001 := by decide +kernel

/-- A COEFF chunk that does not begin at tap 0 fails naming word 1 and leaves nothing staged; a first one of two taps with
one tap is staged. -/
theorem test_chunks : (done_ (posted .ready [0x103302, 0x400000 + 0x10000, 0xc, 5]) (.coefficientChunk 0)).1 = .failed ∧
    (after (posted .ready [0x103302, 0x400000, 0xc, 5]) (.coefficientChunk 0)).dev.survey.coefStaging.getD 0 none = none ∧
    ((after (posted .ready [0x103302, 0x800000, 0xc, 5]) (.coefficientChunk 0)).dev.survey.coefStaging.getD 0 none).isSome = true ∧
    (after (posted .ready [0x103302, 0x400000, 0xc, 5]) (.coefficientChunk 0)).dev.fw.deferred.length = 1 := by decide +kernel

/-! ## Events of inputs, edges and stamps -/

/-- The rails monitors 0 to 6 inside their windows and 7 below, and the main part held for it. -/
def monitorBelow : State := { State.reset with watch := { Watch.reset with
  monitors := Watch.reset.monitors.mapNum fun m (x : Monitor) => if m < 8 then { x with state := if m = 7 then 1 else 0 } else x
  held := true } }

/-- An enabled monitor that reports; a disabled one; one that is borrowed; the rails that hold the main part. -/
theorem test_monitors : (let w := Watch.reset
     (w.monitor 7).enable = true ∧ w.borrowed 7 = false ∧ w.powered = true ∧ (w.monitor 8).enable = false ∧
     { w with holdup := some ⟨[], none⟩ }.borrowed 15 = true) ∧
    monitorBelow.watch.railsBad = true ∧ (after monitorBelow (.monitorExcursion 7 0)).watch.perstN = true ∧
    (after monitorBelow (.monitorExcursion 6 0)).watch.perstN = false ∧ Watch.reset.railsBad = true := by decide +kernel

/-- Channel 95 with settled comparators at LOW, A in TRACK or FAST. -/
def edgeReady (m : CompMode) : State := at_ fun d => d.updChan 95 fun x =>
  { x with a := { settledComp with mode := m }, b := settledComp }

/-- A rising edge flips both; a falling one neither; in TRACK the comparator's output and level follow. -/
theorem test_comparators : let s := edgeReady .track
    s.dev.partUp (bankOf 95) = true ∧ (s.dev.chan 95).a.flips true = true ∧ (s.dev.chan 95).b.flips true = true ∧
    (s.dev.chan 95).a.flips false = false ∧ (s.dev.chan 95).b.flips false = false ∧ (s.dev.chan 95).a.mode ≠ .fast ∧
    (s.dev.chan 95).cfg.bFunc = .level ∧ (s.dev.chan 95).switch = .pin ∧
    ((after s (.comparatorAEdge ⟨95, true, 4096⟩)).dev.chan 95).a.out = true ∧
    ((after s (.comparatorAEdge ⟨95, true, 4096⟩)).relay.source 95).level = true ∧
    ((after s (.comparatorBEdge ⟨95, true, 4096⟩)).relay.source 191).level = true := by decide +kernel

/-- A comparator past its settle time, 375 coarse cycles after 150 ns, and one cycle before it. -/
theorem test_settled_due : let s := at_ fun d => d.updChan 95 fun x =>
      { x with b := { x.b with mode := .track, settleEnd := 375 } }
    s.dev.partUp (bankOf 95) = true ∧ ((s.dev.chan 95).comp true).settled = false ∧
    ((after s (.comparatorSettled 95 true true (375 * 4096))).dev.chan 95).b.settled = true ∧
    ((after s (.comparatorSettled 95 true true (375 * 4096 - 1))).dev.chan 95).b.settled = false := by decide +kernel

/-- A FAST edge at the pin joins the lines of its channel, counted in the frame; one of comparator B in PARTNER joins those
of the partner, channel 94. -/
theorem test_edge_joins : let s := edgeReady .fast
    let recs := { s with dev := s.dev.updChan 95 fun x => { x with frames := [emptyRec 0] } }
    let lent := { s with dev := s.dev.updChan 95 fun x => { x with b := { settledComp with mode := .fast }, cfg := { x.cfg with bFunc := .partner } } }
    let t := after recs (.comparatorAEdge ⟨95, true, 4096⟩)
    s.dev.partUp partStamp = true ∧ s.dev.tb.running = true ∧ s.dev.survey.leadIn = none ∧ s.dev.inCalibrate 95 = false ∧
    ((t.dev.chan 95).inLines.map fun e => (e.at_, e.lines.length)) = [(4096, 4)] ∧
    (t.dev.chan 95).frames.map FrameRec.sorted = [1] ∧
    ((after lent (.comparatorBEdge ⟨95, true, 4096⟩)).dev.chan 94).inLines.map Edge.partner = [true] ∧
    ((after lent (.comparatorBEdge ⟨95, true, 4096⟩)).dev.chan 95).inLines = [] := by decide +kernel

def edgeOn (lines : List Nat) : Edge :=
  { frame := 0, at_ := 99 * 4096, dc := 0, bFunc := .level, rising := true, mode := .quad, lines := lines, codes := [], runt := .none, partner := false, atPin := true,
    credits := 0, cap := none }

/-- A line read that matches its edge and finds room, finds 64 edges waiting, or does not match. -/
theorem test_lineRead : let codes : List LineCode := [⟨1, 100, 512⟩, ⟨2, 100, 512⟩, ⟨3, 100, 512⟩, ⟨4, 100, 512⟩]
    let s := at_ fun d => d.updChan 95 fun x => { x with inLines := [edgeOn [1, 2, 3, 4]] }
    let full := at_ fun d => d.updChan 95 fun x =>
      { x with inLines := [edgeOn [1, 2, 3, 4]], fifoAt := 100, fifo := List.replicate 64 { edgeOn [1, 2, 3, 4] with runt := .held } }
    codes.map LineCode.line = [1, 2, 3, 4] ∧ s.dev.partUp partStamp = true ∧
    ((after s (.lineRead 95 codes)).dev.chan 95).inLines = [] ∧ ((after s (.lineRead 95 codes)).dev.chan 95).fifo.length = 1 ∧
    ((after full (.lineRead 95 codes)).dev.chan 95).fifo.length = 64 ∧
    ((after full (.lineRead 95 codes)).dev.chan 95).lostTotal = 1 := by decide +kernel

/-- The linear table's taps at mid-scale: one edge of QUAD assembles, and its stamp is retired into frame 0 (R64, R86). -/
theorem test_stampRetire : let codes : List LineCode := [⟨1, 100, 512⟩, ⟨2, 100, 512⟩, ⟨3, 100, 512⟩, ⟨4, 100, 512⟩]
    let e := { edgeOn [1, 2, 3, 4] with codes := codes }
    let s := at_ fun d => d.updChan 95 fun x => { x with assembled := [e], frames := [emptyRec 0] }
    let t := after s (.stampRetire 95 104 false)
    (s.dev.chan 95).assembled = [e] ∧ (t.dev.chan 95).assembled = [] ∧
    ((t.dev.chan 95).frames.flatMap fun r => r.stamps.map Stamp.time) = [99 * 4096] ∧
    ((live .ready).dev.chan 95).assembled = [] := by decide +kernel

/-- A damaged stamp is lost; one of a rejected runt is withheld. -/
theorem test_stampRetire_lost : let codes : List LineCode := [⟨1, 100, 512⟩, ⟨2, 100, 512⟩, ⟨3, 100, 512⟩, ⟨4, 100, 512⟩]
    let t := fun (runt : RuntMark) (bad : Bool) =>
      let e := { edgeOn [1, 2, 3, 4] with codes := codes, bFunc := .runtReject, runt := runt }
      (after (at_ fun d => d.updChan 95 fun x => { x with assembled := [e], frames := [emptyRec 0] }) (.stampRetire 95 104 bad)).dev.chan 95
    stampsEdge .runtReject .full = true ∧ stampsEdge .runtReject .runt = false ∧
    (t .full true).lostTotal = 1 ∧ ((t .full true).frames.map fun r => r.stamps.length) = [0] ∧
    (t .runt false).lostTotal = 0 ∧ ((t .runt false).frames.map fun r => r.stamps.length) = [0] ∧
    ((t .full false).frames.map fun r => r.stamps.length) = [1] := by decide +kernel

/-- A mismatch with a bad parity in two cycles in a row parks the channel; with a good parity the received count is taken. -/
theorem test_stampCheck_parks : let s := after (live .ready) (.stampCheck 95 100 false true 0)
    (s.dev.chan 95).parked = false ∧ ((after s (.stampCheck 95 101 false true 0)).dev.chan 95).parked = true ∧
    ((after s (.stampCheck 95 102 false true 0)).dev.chan 95).parked = false ∧
    ((after s (.stampCheck 95 101 true true 0)).dev.chan 95).localCount = 101 := by decide +kernel

theorem test_stampCheck : let s := live .ready
    s.dev.partUp partStamp = true ∧ 95 < s.dev.chans.length ∧
    ((after s (.stampCheck 95 0 false false 0)).dev.chan 95).stampCheckTotal = 1 ∧
    ((after s (.stampCheck 95 0 true true 0)).dev.chan 95).stampCheckTotal = 1 := by decide +kernel

/-- A reading of no line of the edge that waits, and a check without an error, change nothing. -/
theorem test_stamp_idle : let s := at_ fun d => d.updChan 95 fun x => { x with inLines := [edgeOn [1, 2, 3, 4]] }
    after s (.lineRead 95 []) = s.settle ∧ after s (.stampCheck 95 0 true false 0) = s.settle := ⟨rfl, rfl⟩

/-- A SET_MONITOR that waits for the end of a borrowing takes the monitor's place with the first evaluation after it. -/
theorem test_monitor_later : let w := { Watch.reset with borrowTail := 1, laterMonitor := some ⟨true, 2, 5, 4000, true, 3⟩ }
    let ready := { w with monitors := w.monitors.mapNum fun m (x : Monitor) => if m = 15 then { x with enable := true } else x }
    let s := { State.reset with watch := ready }
    let t := after s (.monitorExcursion 15 1)
    (s.watch.monitor 15).enable = true ∧ s.watch.holdup = none ∧ t.watch.laterMonitor = none ∧ (t.watch.monitor 15).lo = 5 ∧
    t.watch.borrowTail = 0 ∧ s.watch.borrowed 15 = true ∧ s.watch.borrowed 14 = false := by decide +kernel

/-! ## Causes of FAULT and SAFE, heat -/

theorem test_causes : let s := live .surveying
    (after s .coarseMismatch).dev.gs.faultCode = 0x01 ∧ (after s .thermalHw).dev.gs.faultCode = 0x04 ∧
    ((after s .thermalHw).dev.part partChart).inReset = true ∧ s.watch.powered = true ∧
    (after { s with watch := { s.watch with monitors := monitorBelow.watch.monitors } } (.supplyFault 7)).dev.gs.faultCode = 0x05 ∧
    s.dogArmed = true ∧ s.boot.running = false ∧
    (after s .watchdog).dev.gs.op = .safe ∧ (after s .watchdog).dev.gs.faultCode = 0x11 ∧
    (after s (.eccError (.gazetteer 0xF7FFF) false)).dev.gs.faultCode = 0x14 ∧
    (after s (.eccError (.captureWord 5) false)).dev.cap.poisoned = [5] ∧ State.reset.dogArmed = false ∧
    State.reset.watch.perstN = false := by decide +kernel

/-- `live .surveying` with a change of firmware's own state. -/
def working (f : Firmware → Firmware) : State := let s := live .surveying
  { s with dev := s.dev.onFw f }

/-- A 17th uncorrectable error within a second is a storm; the 16th is not. -/
theorem test_ecc : let s := fun (n : Nat) => working fun w => { w with eccTimes := List.replicate n 0 }
    (after (s 16) (.eccError .compassMemory false)).dev.gs.faultCode = 0x13 ∧
    (after (s 15) (.eccError .compassMemory false)).dev.gs.faultCode = 0 ∧
    (after (s 15) (.eccError .otherSram true)).dev.fw.eccCorrected = 1 ∧ (after (s 0) (.memoryScrub 4)).dev.fw.eccCorrected = 4 ∧
    (after (copying true) (.eccError .resultRing false)).dev.ring.damaged = true ∧
    (after (s 0) (.eccError .resultRing false)).dev.ring.damaged = false ∧
    (after (s 0) (.eccError (.captureWord 7) false)).dev.host.aerCount = 1 := by decide +kernel

/-- A key, and an image of 1,025 bytes that it signs. -/
def testKeys : Keys :=
  let k : Keys :=
    { key0 := ⟨8420927978378745709307636196816782081914884744332811519524052620181320812180804365992694741053627633863549817602239,
               33209073452494331665758703061402419823669861512759386949071891286932186234143883234378211456462131108402724097391320⟩
      key1 := ⟨0, 0⟩, crc := 0, bad := false }
  { k with crc := crc32 k.bytes }

def signedImage : Image :=
  { bytes := (beBytes 4 imageMagic ++ beBytes 4 1025 ++ beBytes 4 0x010203 ++ List.replicate 52 0 ++
      beBytes 48 35470634502201729405512310578625472891235656497976969800265965783108675536704773332423460833848989824846399571262621 ++
      beBytes 48 8104205085175388479616255056398694741406528921891119865081676161471495927404371144569710282731805661119339714331366 ++
      List.replicate 864 0 ++ [0x5a]).map (BitVec.ofNat 8) }

/-- The image verifies under its key, and with a length or a body byte changed it does not (R357, R358). -/
theorem test_image : let g := { Gazetteer.blank with keys := testKeys }
    g.verifies signedImage 1025 = true ∧ g.verifies signedImage 1026 = false ∧ Gazetteer.blank.verifies signedImage 1025 = false ∧
    g.verifies ⟨signedImage.bytes.set 1024 0x5b⟩ 1025 = false ∧ signedImage.version = 0x010203 := by decide +kernel

/-- A BOOT in which an image runs. -/
def booting : State :=
  let s := live .boot
  { s with boot := { s.boot with running := true, activeSlot := 3, hostImage := some signedImage } }

theorem test_watchdog_boot : booting.dogArmed = true ∧ booting.boot.running = true ∧ booting.dev.tb.running = true := by decide +kernel

/-- Entering FAULT fails the running CALIBRATE and freezes a traverse that was PENDING; the exit is hard but for 0x02 and 0x03. -/
theorem test_fault_slots : (calibratingTwo.dev.slot 15).busy = true ∧ (calibratingTwo.dev.cmdOf 15).legalIn .fault = false ∧
    ((calibratingTwo.enterFault 0x05).dev.slot 15).error = BitVec.ofNat 8 eState ∧
    (calibratingTwo.enterFault 0x05).dev.gs.hardExit = true ∧ (calibratingTwo.enterFault 0x02).dev.gs.hardExit = false := by
  decide +kernel

theorem test_fault_stops : (let s := live .surveying
     s.dev.gs.op ≠ .fault ∧ (s.enterFault 0x0F).dev.gs.op = .fault ∧ (s.enterFault 0x10).dev.gs.op = .safe ∧
     (s.enterFault 0x0F).dev.gs.flags.getLsbD flagFault = true) ∧
    ((live .fault).enterFault 0x10).dev.gs.op = .fault ∧ (live .fault).dev.gs.op = .fault := by decide +kernel


/-- The frame in progress reaches the first instant of a thermal evaluation, 2,500,000. -/
def measuredHeat (f : Firmware → Firmware) : State :=
  let s := working f
  { s with dev := (s.dev.onTb fun t => { t with frame := 38, tickCount := 2490368 }).onSurvey fun y =>
      { y with frames := [gatedFrame 38] } }

/-- 108.1 °C twice in a row; 95.0 °C for the 10,000th time in FAULT; below 100.1 °C nothing sheds. -/
theorem test_heat : (let s := measuredHeat fun w => { w with hotBefore := true }
     let t := after s (.thermalEvaluation (List.replicate 24 865))
     s.dev.partUp partCompass = true ∧ hottest (List.replicate 24 865) = 865 ∧ t.dev.gs.faultCode = 0x03 ∧
     t.dev.cap.chart.shed = true ∧ (after s (.thermalEvaluation (List.replicate 24 864))).dev.gs.op = .surveying ∧
     (after s (.thermalEvaluation (List.replicate 24 800))).dev.cap.chart.shed = false) ∧
    (let s := measuredHeat fun w => { w with thermal := true, coolFault := 9999 }
     let t := { s with dev := s.dev.onGs fun g => { g with op := .fault } }
     (after t (.thermalEvaluation (List.replicate 24 760))).dev.gs.op = .ready ∧
     (after t (.thermalEvaluation (List.replicate 24 761))).dev.gs.op = .fault) ∧
    (let s := measuredHeat id
     let boot := fun (on : Bool) => { s with dev := (s.dev.onGs fun g => { g with op := .boot }).onFw fun w => { w with started := on } }
     (after (boot true) (.thermalEvaluation [801])).dev.fw.temps = [801] ∧
     (after (boot false) (.thermalEvaluation [801])).dev.fw.temps ≠ [801]) := by decide +kernel

/-! ## The time base -/

theorem test_locks : let s := live .ready
    let n : Nat := 100 * 2 ^ 20
    let u := after s (.lockWindowEnd .meridian (n - 2) 0)
    let steered := { s with dev := s.dev.onTb fun t => { t with steer := 2 ^ 28 } }
    s.dev.lockTarget .meridian = 104857600 ∧ steered.dev.lockTarget .meridian = 104857700 ∧ s.watch.perstN = true ∧
    (s.dev.tb.pll .meridian).locked = false ∧ (s.dev.tb.pll .meridian).openLoop = false ∧
    (u.dev.tb.pll .meridian).locked = true ∧ u.dev.tb.running = true ∧
    ((after s (.lockWindowEnd .meridian (n - 3) 0)).dev.tb.pll .meridian).locked = false ∧
    ((after u (.lockWindowEnd .meridian (n + 64) 0)).dev.tb.pll .meridian).locked = true ∧
    (after u (.lockWindowEnd .meridian (n + 65) 0)).dev.gs.faultCode = 0x02 ∧
    (after u (.lockWindowEnd .meridian (n + 65) 0)).dev.tb.chart.openLoop = true := by decide +kernel

/-- Another ADPLL locks at its target, whatever f_DCO is, and loses lock 65 off it. -/
theorem test_locks_other : ∃ n : Nat, ((n : Int) - (live .ready).dev.lockTarget .chart).natAbs = 0 ∧
    64 < (((n + 65 : Nat) : Int) - (live .ready).dev.lockTarget .chart).natAbs := by
  have pos : ∀ (x : Nat) (d : Nat), (0 : Int) ≤ roundDiv x d := by
    intro x d
    unfold roundDiv
    split
    · exact Int.le_refl 0
    · exact Int.ediv_nonneg (by omega) (by omega)
  obtain ⟨n, h⟩ := Int.eq_ofNat_of_zero_le (a := (live .ready).dev.lockTarget .chart) (by
    unfold Dev.lockTarget
    dsimp only
    split
    · exact pos _ _
    · exact pos _ _)
  exact ⟨n, by omega, by omega⟩

/-- A locked ADPLL other than the Meridian, and one whose loop is open. -/
theorem test_locks_states : let s := at_ fun d => d.onTb fun t => { t with chart := { t.chart with locked := true }, store := { t.store with openLoop := true } }
    (s.dev.tb.pll .chart).locked = true ∧ (s.dev.tb.pll .chart).openLoop = false ∧ (s.dev.tb.pll .store).openLoop = true := by decide

/-- The next tick, of frame 2^24 with k = 24, stands at 2^48. -/
def beforeWrap : State := at_ fun d => d.onTb fun t =>
  { t with k := 24, anchorK := 24, frame := 2 ^ 24 - 1, tickCount := 2 ^ 48 - 2 ^ 24, coarse := BitVec.ofNat 48 (2 ^ 48 - 2 ^ 24) }

theorem test_coarseWrap : beforeWrap.dev.tb.running = true ∧
    beforeWrap.dev.tb.nominal (beforeWrap.dev.tb.frame + 1) % 2 ^ 48 = 0 ∧ (after beforeWrap .coarseWrap).dev.tb.epoch = 1 ∧
    after (live .ready) .coarseWrap = (live .ready).settle := ⟨rfl, by decide, by decide +kernel, rfl⟩

/-- 59 means and a pin high since an evaluation, in the frame in which the next evaluation falls. -/
def warming (n : Int) (since : Nat) : State := at_ fun d =>
  (d.onTb fun t => { t with means := List.replicate 58 0 ++ [n], evaluated := 0, ocxoWarm := true, warmSince := since
                            frame := 38146, tickCount := 2499936256 }).onSurvey fun y =>
    { y with frames := [{ gatedFrame 38146 with tick := 2499936256 }] }

/-- 60 means within 5,000 and the pin high for 60 seconds: warm; a spread of 5,001 or 59 seconds: not. -/
theorem test_stability : let late := fun (n : Nat) (s : State) =>
      { s with dev := s.dev.onTb fun t => { t with evaluated := n, frame := t.frame + 38147 * n, tickCount := t.tickCount + 2500000000 * n } }
    let due := fun (n since : Nat) (m : Int) =>
      let s := late n (warming m since)
      { s with dev := s.dev.onSurvey fun y => { y with frames := [{ gatedFrame 0 with tick := 2499936256 + 2500000000 * n }] } }
    (after (due 99 40 2500) (.stabilityEvaluation (-2500))).dev.tb.warmNext = true ∧
    (after (due 99 40 2501) (.stabilityEvaluation (-2500))).dev.tb.warmNext = false ∧
    (after (due 99 41 0) (.stabilityEvaluation 0)).dev.tb.warmNext = false ∧
    (after (due 99 41 0) (.stabilityEvaluation 0)).dev.tb.evaluated = 100 ∧
    State.reset.dev.tb.running = false := by decide +kernel

theorem test_stability_early : after (live .ready) (.stabilityEvaluation 0) = (live .ready).settle := rfl

theorem test_ocxo : let s := after (live .ready) (.ocxoWarmChange true)
    (live .ready).dev.tb.ocxoWarm = false ∧ s.dev.tb.ocxoWarm = true ∧ s.dev.tb.warmSince = 1 ∧
    (after s (.ocxoWarmChange false)).dev.tb.ocxoFell = true := by decide +kernel

/-- Two edges of 10 MHz, 250 coarse cycles apart, make a good window; one edge does not. -/
theorem test_windows : windowGood [0, 250 * 4096] (250 * 4096) = true ∧ windowGood [0] (250 * 4096) = false ∧
    windowGood [] (250 * 4096) = false ∧ TimeBase.reset.cfg.period = 250 * 4096 := by decide +kernel

def refState (f : TimeBase → TimeBase) : State := at_ fun d => d.onTb f

/-- An edge of REF_IN at 4,096,000 gr with REF_IN the source steers; a reading of other lines is no edge. -/
theorem test_refEdge : let s := refState fun t => { t with refPresent := true, cfg := { t.cfg with refSrc := 1 } }
    let codes : List LineCode := [⟨1, 1001, 512⟩, ⟨2, 1001, 512⟩, ⟨3, 1001, 512⟩, ⟨4, 1001, 512⟩]
    s.dev.tb.pathStamp 0 codes = some 4096000 ∧ s.dev.tb.pathStamp 0 [] = none ∧
    (after s (.refEdge codes)).dev.tb.windowEdges = [4096000] ∧ (after s (.refEdge codes)).dev.tb.lastEdge = some 4096000 := by decide +kernel

/-- The fourth good window sets REF_PRESENT; REF_ABSENT in the steered state starts holdover. -/
theorem test_reference : (let s := refState fun t => { t with goodWindows := 3, windowEdges := [250 * 4096, 0] }
     s.dev.tb.cfg.refSrc ≠ 2 ∧ (after s .refWindowEnd).dev.tb.refPresent = true ∧
     (after (live .ready) .refWindowEnd).dev.tb.goodWindows = 0) ∧
    (let s := refState fun t => { t with refPresent := true, cfg := { t.cfg with refSrc := 1 } }
     let last := fun e => { s with dev := s.dev.onTb fun t => { t with lastEdge := some e, tickCount := 2000 } }
     let ago := 2000 * 4096 - 4 * 1024000
     s.dev.tb.steering = true ∧ (after s .refAbsent).dev.tb.holdover = true ∧
     (after (last (ago - 1)) .refAbsent).dev.tb.holdover = true ∧ (after (last ago) .refAbsent).dev.tb.holdover = false ∧
     (after s .refWindowEnd).dev.tb.refPresent = false) := by decide +kernel

/-- REF_RETURN with errors measured: mean 3 of 2 and 3, half up; with SYNC a mean of 2^31 + 1 is refused, 2^31 not. -/
def returning (src : Nat) (errs : List Int) : State :=
  refState fun t => { t with holdover := true, refPresent := true, returnErrors := errs, cfg := { t.cfg with refSrc := src } }

theorem test_refReturn : (after (returning 1 [2, 3]) .refReturn).dev.tb.returnDue = some 3 ∧
    (after (returning 2 [2 ^ 31 + 1]) .refReturn).dev.tb.returnDue = none ∧
    (after (returning 2 [2 ^ 31]) .refReturn).dev.tb.returnDue = some (2 ^ 31) ∧
    (after (returning 1 []) .refReturn).dev.tb.returnDue = none := by decide +kernel

theorem test_refWalkEnd : (after (refState fun t => { t with frame := 10, walk := some ⟨4, 6, 100, 7, 65536, false⟩ }) .refWalkEnd).dev.tb.walk = none ∧
    (after (refState fun t => { t with frame := 10, walk := some ⟨4, 6, 100, 7, 65536, false⟩ }) .refWalkEnd).dev.tb.refPhase = 7 ∧
    (after (refState fun t => { t with frame := 9, walk := some ⟨4, 6, 100, 7, 65536, false⟩ }) .refWalkEnd).dev.tb.walk = some ⟨4, 6, 100, 7, 65536, false⟩ := by
  decide +kernel

/-- Tick Q of a return of 2 coarse cycles: ABSORB keeps the offset, SLEW at 1,000 ps/s takes ceil(800 ps / 26.2144 fs) frames,
STEP loads the nominal count less 2; a wrap 1 cycle before the tick puts the STEP off. -/
def returnAt (jump start : Nat) : TimeBase :=
  (after (refState fun t => { t with
    holdover := true, refPresent := true, returnDue := some 8192, anchorCount := start, tickCount := start
    cfg := { t.cfg with refSrc := 1, jump := jump, slewRate := 1000 } }) (.frameTick tick)).dev.tb

theorem test_returnTick : (returnAt 0 0).refPhase = 8192 ∧ (returnAt 0 0).holdover = false ∧ (returnAt 0 0).tickCount = 65536 ∧
    (returnAt 1 0).walk.map Walk.total = some 30518 ∧ (returnAt 1 0).refPhase = 8192 ∧ (returnAt 1 0).walking = true ∧
    (returnAt 2 0).tickCount = 65534 ∧ (returnAt 2 0).refPhase = 0 ∧ (returnAt 2 0).returnDue = none ∧
    (returnAt 2 (2 ^ 48 + 1 - 65536)).returnDue = some 8192 ∧ (returnAt 2 (2 ^ 48 + 1 - 65536)).holdover = true ∧
    (returnAt 2 (2 ^ 48 + 2 - 65536)).returnDue = none := by decide +kernel

/-! ## Triangulation -/

def member : State := refState fun t => { t with align := { t.align with armed := true, role := true, echo := true, apply := some (0, 0) } }

/-- Mid-scale readings of the four active lines of frame 0, one coarse cycle after the stamp n − 1 that they make. -/
def readAt (n : Nat) : List LineCode := [⟨1, n, 512⟩, ⟨2, n, 512⟩, ⟨3, n, 512⟩, ⟨4, n, 512⟩]

/-- An echo so read. -/
def echoAt (n : Nat) : Instr := .probeEcho ⟨1, n, 512⟩ (readAt n).tail

/-- The marker of an aligned head at the same frame is valid at a member with the same k, and ALIGNED. -/
def headMarker (k : Nat) : BitVec 152 := { (live .ready).dev.tb with k := k, align := { Align.reset with armed := true } }.marker

theorem test_markers : (let t := member.dev.tb
     t.running = true ∧ t.align.armed = true ∧ t.align.role = true) ∧
    markerValid (headMarker 16) 16 = true ∧ (headMarker 16).getLsbD 129 = true ∧ markerValid (headMarker 17) 16 = false ∧
    markerValid (headMarker 16 ^^^ 1) 16 = false ∧
    member.dev.tb.pathStamp 1 (readAt 2) = some 4096 ∧ member.dev.tb.pathStamp 1 [] = none ∧
    (after member (.syncMarker (headMarker 16) (readAt 2))).dev.tb.align.residual = 4096 ∧
    (after member (.syncMarker (headMarker 16) (readAt 2))).dev.tb.align.apply = none ∧
    ((after member (.syncMarker (headMarker 16) (readAt 2))).dev.tb.align.move.map MoveDue.delta) = some 4096 := by decide +kernel

/-- The turned part of frame 0 at k = 16: from 2^14 to 3 × 2^14 coarse cycles. -/
theorem test_probe : (after member (.syncProbeReceived (readAt (2 ^ 14 + 1)))).dev.tb.align.lastEcho = 2 ^ 14 * 4096 + 262144 ∧
    (after member (.syncProbeReceived (readAt (2 ^ 14)))).dev.tb.align.lastEcho = 0 ∧ member.dev.tb.turned (2 ^ 14 * 4096) = true ∧ member.dev.tb.turned (2 ^ 14 * 4096 - 1) = false ∧
    member.dev.tb.turned (3 * 2 ^ 14 * 4096) = true ∧ member.dev.tb.turned ((3 * 2 ^ 14 + 1) * 4096) = false := by decide +kernel

def measuring (returned sent : Nat) : State :=
  refState fun t => { t with align := { t.align with measure := some ⟨0, 0, 4, sent, returned, 262144 * returned + 100, 4096, 3, 1⟩ } }

/-- A valid marker of frame 0 at k = 16 starts the probes of a measurement: the first 2^14 + 128 coarse cycles after it. -/
theorem test_marker_launches : let s := refState fun t => { t with align := { t.align with
      armed := true, role := true, measure := some ⟨0, 0, 4, 1, 0, 0, 0, 0, 5⟩ } }
    (after s (.syncMarker (headMarker 16) (readAt 2))).dev.tb.align.measure =
      some ⟨0, 0, 4, 4, 0, 0, (1 + 2 ^ 14 + 128) * 4096, 3, 0⟩ := by decide +kernel

/-- Probes go at 1, 257 and 513 coarse cycles, and the echo of the first has come. An echo counts up to 256 cycles after its
probe and once for each; 2 of 4 make a delay, 1 of 4 E_LINK. -/
theorem test_measure : (let m := fun (s : State) => s.dev.tb.align.measure.map MeasureRun.returned
     m (after (measuring 1 4) (echoAt 514)) = some 2 ∧ m (after (measuring 1 4) (echoAt 258)) = some 1 ∧
     m (after (measuring 1 4) (echoAt 770)) = some 2 ∧ m (after (measuring 1 4) (echoAt 771)) = some 1 ∧
     (after (measuring 2 4) .alignMeasureDone).dev.tb.align.linkDelay = 25 ∧
     (after (measuring 1 4) .alignMeasureDone).dev.tb.align.measured = false ∧ m (after (measuring 1 4) .alignMeasureDone) = none ∧
     m (after (measuring 2 3) .alignMeasureDone) = some 2 ∧ m (live .ready) = none) := by decide +kernel

/-- The tick of an ALIGN_APPLY of 100 coarse cycles: the next tick, at count 65,536, has the upstream number of it, counted from
the marker of frame f at count 5 × 65,536. -/
def alignAt (f : Nat) : State := after (refState fun t => { t with align := { t.align with
  armed := true, role := true, move := some { tick := 1, delta := 409600, upFrame := f, upCount := 327680 } } }) (.frameTick tick)

theorem test_alignTick : (alignAt 1000).dev.tb.frame = 995 ∧ (alignAt 1000).dev.tb.anchorFrame = 996 ∧
    (alignAt 1000).dev.tb.tickCount = 65436 ∧ (alignAt 1000).dev.tb.anchorCount = 65536 ∧
    (alignAt 1000).dev.tb.syncAligned = true ∧ (alignAt 1000).dev.tb.align.move = none ∧
    ((alignAt 1000).dev.chan 95).frames.head?.map FrameRec.frame = some 995 ∧
    (alignAt 2).dev.tb.anchorFrame = 2 ^ 40 - 2 ∧ (alignAt 5).dev.tb.anchorFrame = 2 ^ 40 + 1 := by decide +kernel

theorem test_alignTimeout : (after (refState fun t => { t with frame := 256, align := { t.align with apply := some (0, 0) } })
      .alignApplyTimeout).dev.tb.align.apply = none ∧
    (after (refState fun t => { t with frame := 255, align := { t.align with apply := some (0, 0) } })
      .alignApplyTimeout).dev.tb.align.apply = some (0, 0) := by decide +kernel

/-! ## Ticks and the work of a frame -/

/-- START accepted for tick 1: the tick takes it, with the lead-in frame, and a deferred SET_POLICY applies. -/
theorem test_tick_applies : let s := at_ fun d =>
      ((d.onGs fun g => { g with transitions := [(1, .start)] }).defer 1 0x004 (.policy true)).onTb fun t =>
        { t with pendingK := some ⟨1, 12, true⟩ }
    let t := after s (.frameTick tick)
    s.dev.tb.align.move = none ∧ t.dev.gs.transitions = [] ∧ t.dev.gs.op = .surveying ∧ t.dev.fw.deferred = [] ∧
    t.dev.gs.strict = true ∧ t.dev.tb.k = 12 ∧ t.dev.survey.leadIn = some 1 ∧
    after State.reset (.frameTick tick) = State.reset.settle := by decide +kernel

/-- A transition that is not due stays. -/
theorem test_tick_waits : let s := at_ fun d => d.onGs fun g => { g with transitions := [(2, .start)] }
    (after s (.frameTick tick)).dev.gs.transitions = [(2, .start)] := by decide +kernel

/-- Frame 1 in progress after a gated frame 0. -/
def surveyed (f : Dev → Dev) : State :=
  let s := live .surveying
  let d := (s.dev.onTb fun t => { t with frame := 1, tickCount := 65536, coarse := 65536 }).onSurvey fun y =>
    { y with inRun := true, frames := [gatedFrame 1, gatedFrame 0] }
  { s with dev := f d }

/-- Item 5, COUNT of channel 95, in a gate of two frames that opened with frame 0, and one of as many edges. -/
def counting (mode : Nat) : ItemRun :=
  let d := post Dev.reset [0x15302, 5 * 2 ^ 26 + 8 * 2 ^ 18 + mode * 2 ^ 16, 95 * 2 ^ 29 + (127 * 2 ^ 22 + 127 * 2 ^ 15 + 127 * 2 ^ 8), 1]
  { ItemRun.fresh 5 (d.cmdOf 0).item 0 with phase := .opened 0 none, count := 2 }

/-- Frame 2 in progress after gated frames of a run, frame 0 of which groups were too late for or not. -/
def working2 (late run : Bool) : Dev :=
  let s := live .surveying
  (((s.dev.onTb fun t => { t with frame := 2, tickCount := 131072 }).updChan 95 fun x => { x with frames := [emptyRec 1, emptyRec 0] }).onSurvey
    fun y => { y with inRun := true, items := [counting 0]
                      frames := [gatedFrame 2, gatedFrame 1, { gatedFrame 0 with lateAll := late, inRun := run }] })

/-- The batch of frame 0 of an item without edges: VALID, PARTIAL and NO_SIGNAL, and zeros (R158); an overrun is counted and
logged; out of a run nothing is published. -/
theorem test_readings : let d := working2 false true
    let t := d.workTick.1
    (d.info 0).map FrameInfo.unpublished = some true ∧ d.partUp partCapture = true ∧ d.survey.overrunFrame (gatedFrame 0) = false ∧
    t.ring.wc = 9 ∧ Mem.read t.cap.mem (ringBase + 2) = 0x80050043 ∧ Mem.read t.cap.mem ringBase = 0xB00000007 ∧
    (t.survey.store.map fun x => (x.1, x.2.1.length, x.2.2.length)) = [(5, 0, 7)] ∧
    (working2 true true).workTick.1.survey.overruns = 1 ∧ (working2 true true).workTick.1.survey.runLog.length = 1 ∧
    (working2 false false).workTick.1.ring.wc = 0 ∧ (live .ready).dev.workTick.2.isSome = false := by decide +kernel

/-- A gate of two frames ends with the second, one of two edges once two are counted. -/
theorem test_gates : ((counting 0).finish (gatedFrame 0)).2 = false ∧ ((counting 0).finish (gatedFrame 1)).2 = true ∧
    ((counting 1).finish (gatedFrame 0)).2 = true ∧ ({ counting 1 with count := 1 }.finish (gatedFrame 0)).2 = false ∧
    (counting 0).item.kind = kCount ∧ (counting 0).item.gateMode = 0 ∧ (counting 1).item.gateMode = 1 := by decide +kernel

/-- An adaptation in a run, and one out of it. -/
theorem test_adapt : let t := (working2 false true).adaptLevel 95 300
    (t.chan 95).cfg.thrA = 300 ∧ t.survey.runLog.length = 1 ∧ (t.survey.frames.map FrameInfo.adapted).head? = some true ∧
    (((live .ready).dev.adaptLevel 95 300).chan 95).cfg.thrA = ChanCfg.reset.thrA := by decide +kernel

/-- DIGEST_CLOSE of a drained channel, of one with an edge on its way, of a parked one, and of one with nothing due. -/
theorem test_digestClose : let s := surveyed fun d => d.updChan 95 fun x => { x with frames := [emptyRec 1, emptyRec 0] }
    let late := { s with dev := s.dev.updChan 95 fun x => { x with inLines := [edgeOn [0]] } }
    let parked := { s with dev := s.dev.updChan 95 fun x => { x with parked := true } }
    (s.dev.digestDue (s.dev.chan 95)).map FrameRec.frame = some 0 ∧ (s.dev.info 0).isSome = true ∧
    s.dev.drained 95 0 = true ∧ late.dev.drained 95 0 = false ∧
    ((after s (.digestClose 95)).dev.chan 95).frames.map FrameRec.closed = [false, true] ∧
    ((after late (.digestClose 95)).dev.chan 95).frames.map FrameRec.closed = [false, false] ∧
    ((after parked (.digestClose 95)).dev.chan 95).frames.map FrameRec.closed = [false, false] ∧
    s.dev.digestDue (s.dev.chan 0) = none ∧
    (let lost := { s with dev := s.dev.onSurvey fun y => { y with frames := [gatedFrame 1] } }
     lost.dev.info 0 = none) := by decide +kernel

/-- A line that is not the shadow line of frame 0; a lead-in frame with hits and with none. -/
theorem test_lutCandidate : let s := surveyed id
    let lead := { s with dev := s.dev.onSurvey fun y => { y with leadIn := some 1 } }
    s.dev.partUp partStamp = true ∧ s.dev.inLeadIn = false ∧ s.dev.cal.run = none ∧ shadowLine (1 - 1) = 0 ∧
    lead.dev.inLeadIn = true ∧
    (((after lead (.lutCandidateBuilt 95 4 [⟨64, 1⟩] [])).dev.chan 95).lines.map Line.histCount).getLast? = some 1 ∧
    ((((after lead (.lutCandidateBuilt 95 4 [] [])).dev.chan 95).lines.getLast?.bind Line.cand).map Candidate.reason) = some 5 := by
  decide +kernel

theorem test_lutCandidate_other : after (surveyed id) (.lutCandidateBuilt 95 4 [⟨64, 1⟩] []) = (surveyed id).settle := rfl

/-- A line of REF_IN, path 96, in its shadow turn; a channel that a run measures, before f_c. -/
theorem test_lutCandidate_paths : let s := surveyed id
    let run := { s with dev := s.dev.onCal fun c =>
      { c with run := some { slot := 0, banks := 0x800, deskewInt := false, first := 0, limit := 9, fc := none, deskewAt := none,
                             startUp := false, cancelled := false } } }
    let z := fun (t : State) (l : Nat) => (t.dev.chan 95).line l
    (((after s (.lutCandidateBuilt 96 0 [⟨64, 1⟩] [])).dev.tb.paths.getD 0 []).map Line.histCount).head? = some 1 ∧
    (run.dev.cal.run.map fun r => r.measures 95 0) = some true ∧
    (z (after run (.lutCandidateBuilt 95 4 [⟨64, 1⟩] [⟨0, some 70, none, none⟩])) 4).histCount = 1 ∧
    (z (after run (.lutCandidateBuilt 95 4 [⟨64, 1⟩] [⟨0, some 70, none, none⟩])) 4).obs.length = 1 := by decide +kernel

/-- AUTO_LEVEL of channel 95 after its dwell of 1 frame at step 1 or 28, before it, and cancelled. -/
def levelling (step dwell : Nat) (cancelled : Bool) : State := surveyed fun d =>
  (d.onFw fun w => { w with levels := some ⟨15, 50, false, dwell, step, 0, [⟨95, false, 8192, 0, 16383⟩], cancelled⟩ }).updSlot 15 fun x =>
    { x with st := .running }

theorem test_levelStep : (let st := fun (s : State) => (after s .autoLevelStepEnd).dev.fw.levels.map LevelRun.step
    st (levelling 1 1 false) = some 2 ∧ st (levelling 27 1 false) = some 28 ∧ st (levelling 28 1 false) = none ∧
    st (levelling 1 2 false) = some 1 ∧ st (levelling 1 1 true) = some 1 ∧ st (levelling 0 1 false) = some 0 ∧
    ((after (levelling 28 1 false) .autoLevelStepEnd).dev.slot 15).st = .done ∧ (live .ready).dev.fw.levels = none) := by
  decide +kernel

theorem test_trackCycle : (live .ready).dev.tb.frame % 4 = 0 ∧ (surveyed id).dev.tb.frame % 4 ≠ 0 ∧
    isNext (exec .autoLevelTrackCycle (live .ready)) = true := by decide +kernel

/-! ## TRIG lines -/

def trigState (dir : Nat) (due : List Nat) (ends : Option Nat) : State := surveyed fun d =>
  d.updTrig 7 fun y => { y with dir := dir, due := due, ends := ends }

theorem test_trigLines : ((trigState lineOut [] none).dev.trigLine 7).dir = lineOut ∧
    ((after (trigState lineIn [] none) (.trigEdge 7 true 65536)).dev.survey.frames.map FrameInfo.trig) = [[(7, true)], []] ∧
    ((after (trigState 0 [] none) (.trigEdge 7 true 65536)).dev.trigLine 7).level = true ∧
    ((after (trigState lineOut [] none) (.trigEdge 7 true 65536)).dev.trigLine 7).level = false ∧
    ((after (trigState lineOut [100] none) (.trigOutActive 7)).dev.trigLine 7).ends = some 164 ∧
    ((after (trigState lineOut [100] none) (.trigOutActive 7)).dev.trigLine 7).level = true ∧
    ((after (trigState lineOut [] none) (.trigOutActive 7)).dev.trigLine 7).level = false ∧
    ((after (trigState lineOut [] (some 5)) (.trigOutInactive 7)).dev.trigLine 7).ends = none ∧
    (trigState 0 [] none).dev.trigLine 7 ≠ (trigState lineIn [] none).dev.trigLine 7 := by decide +kernel

/-! ## Capture and charts -/

/-- Traverse 255 of channel 95 with the gated frame 0 to commit. -/
def traversing : State := surveyed fun d =>
  let e := post d [0x3501, 0xFFBE60000, 1, 0x2710]
  ((after { live .ready with dev := { e with gs := { e.gs with op := .ready } } } (.defineTraverse 0)).dev.onGs fun g =>
    { g with op := .surveying }).updTraverse 255 fun t => { t with from_ := 0, next := 0 }

/-- A PENDING traverse is FROZEN when FAULT stops it, up to what it has committed. -/
theorem test_fault_freezes : let s := { traversing with dev := traversing.dev.updTraverse 255 fun t => { t with freeze := .pending 0 0 1 1 false } }
    ((s.enterFault 0x05).dev.traverse 255).map (fun t => (t.freeze, t.trigFrame)) = some (.frozen, 0) := by decide +kernel

theorem test_commit : ((traversing.dev.traverse 255).bind traversing.dev.commitDue).map FrameInfo.frame = some 0 ∧
    ((after traversing (.traverseCommit 255)).dev.traverse 255).map Traverse.next = some 1 ∧
    (live .ready).dev.traverse 255 = none := by decide +kernel

/-- An edge of the frame on its way to a stamp holds the commit up. -/
theorem test_commit_waits : (after { traversing with dev := traversing.dev.updChan 95 fun x => { x with inLines := [edgeOn [1]] } }
      (.traverseCommit 255)).dev.traverse 255 = traversing.dev.traverse 255 ∧ traversing.dev.drained 95 0 = true := by decide +kernel

/-- The channel frame of frame 0 with one stamp at coarse cycle 0x5678 and fine 512: header, the compact word of R76, trailer; and
its place in the ring. Without stamps the frame is skipped. -/
theorem test_channelFrame : let z : Stamp := { time := 0x5678 * 4096 + 512, ch := 95, rising := true, mode := .quad }
    let s := { traversing with dev := (traversing.dev.updChan 95 fun x => { x with
        frames := [{ emptyRec 0 with stamps := [z, z, z], lostFifo := 1 }] }).updTraverse 255 fun t => { t with rate := 1, kind := tvCompact } }
    let t := after s (.traverseCommit 255)
    let base := ((s.dev.traverse 255).map Traverse.base).getD 0
    let read := fun (i : Nat) => Mem.read t.dev.cap.mem (base + i)
    read 0 = w36 (2 ^ 32 + 95 * 2 ^ 25) ∧ read 1 = 0 ∧ read 2 = 0x005678201 ∧ read 5 = w36 (0xE * 2 ^ 32 + 2 ^ 29 + 3) ∧
    ((t.dev.traverse 255).map Traverse.wc) = some 6 ∧
    (let u := { s with dev := s.dev.updTraverse 255 fun y => { y with rate := 0 } }
     ((after u (.traverseCommit 255)).dev.traverse 255).map Traverse.wc = some 3) ∧
    (let u := { s with dev := s.dev.onSurvey fun y => { y with frames := [gatedFrame 1, { gatedFrame 0 with noStamps := true }] } }
     ((after u (.traverseCommit 255)).dev.traverse 255).map (fun y => (y.wc, y.skipped, y.next)) = some (0, 1, 1)) := by
  decide +kernel

/-- Map 15 of a kind, cleared at tick 0, decaying by 1/2^1 every frame. -/
def mapped (kind : Nat) : State := surveyed fun d => d.onCap fun c =>
  { c with
    mem := [(0, 8), (1, 0xFFFFFFFFF)]
    maps := [{ num := 15, base := 0, from_ := 0, lastFrame := 0, events := 0, skipped := 0, outside := 0, cleared := 0, row := 0,
               lastStep := 0, waiting := [],
               cfg := { kind := kind, chA := 95, chB := 0, senseA := 0, senseB := 0, specItem := 0, xOrg := 0, xe := 0, yOrg := 0,
                        ye := 0, fpc := 0, maxSpan := 0, decayD := 1, decayFr := 1, code0 := 100, codeStep := 1, rows := 2,
                        dwell := 1, scale := 0, binGroup := 0, rate := 0 } }] }

/-- Buffer 0 of 16 x 16 pixels and a render of map 15 into it, due in frame 1. -/
def rendering (shed : Bool) (busy : Option (Nat × List (Nat × Nat × Nat))) : State :=
  let s := mapped mapPersist
  { s with dev := s.dev.onChart fun c =>
    { c with shed := shed
             buffers := [⟨0, 16, 16, 0, 0x1000000, 1, 8⟩]
             renders := [{ map := 15, buffer := 0, alt := none, zoom := 0, autoCommit := false, flip := false, log := false,
                           shift := 0, lOff := 0, sx := 0, sy := 0, sw := 2, sh := 2, dx := 0, dy := 0, period := 4, due := 1,
                           started := true, useAlt := false, busy := busy }] } }

theorem test_maps : ((mapped mapPersist).dev.map_ 15).isSome = true ∧ (mapped mapPersist).dev.mapsLive = true ∧
    (((mapped mapPersist).dev.map_ 15).bind fun m => m.decayDue 0) = none ∧
    (((mapped mapPersist).dev.map_ 15).bind fun m => m.decayDue 1) = some 1 ∧
    (let s := mapped mapPersist
     let t := { s with dev := s.dev.onTb fun u => { u with frame := 2 } }
     Mem.read (after t (.contourDecay 15)).dev.cap.mem 0 = 4 ∧ ((after t (.contourDecay 15)).dev.map_ 15).map CMap.lastStep = some 1) ∧
    ((after (mapped mapEye) (.levelEyeStep 15)).dev.chan 95).cfg.thrB = 100 + 1 := by decide +kernel

theorem test_maps_idle : after (mapped mapPersist) (.levelEyeStep 15) = (mapped mapPersist).settle ∧
    after (rendering false none) (.renderDone 0) = (rendering false none).settle := ⟨rfl, rfl⟩

theorem test_renders : (let r := fun (s : State) => s.dev.cap.chart.renders.head?.map fun x => (x.due, x.busy.isSome)
    r (after (rendering false none) (.renderStart 0)) = some (5, true) ∧
    r (after (rendering true none) (.renderStart 0)) = some (5, false) ∧
    (after (rendering true none) (.renderStart 0)).dev.cap.chart.skippedRenders = 1 ∧
    (let t := after (rendering false (some (0, [(0, 0, 0xFF0000)]))) (.renderDone 0)
     t.dev.cap.mem.length = 3 ∧ r t = none ∨ r t = some (1, false)) ∧
    (rendering false none).dev.partUp partChart = true ∧ (rendering false none).dev.partUp partCapture = true ∧
    ((rendering false none).dev.buffer 0).isSome = true ∧
    (let gone := { rendering false none with dev := (rendering false none).dev.onCap fun c => { c with maps := [] } }
     gone.dev.map_ 15 = none)) := by decide +kernel

/-- A finished render with AUTO_COMMIT: refused for a buffer that does not hold a line of the mode. -/
theorem test_autoCommit : let s := rendering false (some (0, [(0, 0, 0xFF0000)]))
    let t := after { s with dev := s.dev.onChart fun c => { c with
      mode := 1, renders := c.renders.map fun r => { r with autoCommit := true } } } (.renderDone 0)
    let free := after { s with dev := s.dev.onChart fun c => { c with
      renders := c.renders.map fun r => { r with autoCommit := true } } } (.renderDone 0)
    t.dev.cap.chart.refused = true ∧ t.dev.cap.chart.slot = none ∧
    free.dev.cap.chart.live = ⟨0x1000000, 8, 0⟩ ∧ free.dev.cap.chart.refused = false := by decide +kernel

/-- The legend of 10: 1000 maps to 63 with LOG and L_OFF = 16, to 62 with LINEAR and SHIFT = 4; 1 and 2^36 − 1. -/
theorem test_legend : legendIndex true 0 16 1000 = 63 ∧ legendIndex false 4 0 1000 = 62 ∧ legendIndex true 0 16 0 = 0 ∧
    logSteps 1 = 0 ∧ logSteps (2 ^ 36 - 1) = 287 := by decide +kernel

def charting (mode : Nat) (change : Option ModeChange) (up : Bool) : State := at_ fun d => d.onChart fun c =>
  { c with mode := mode, change := change, hpd := true, linkUp := up, scanning := up, scanNow := up, scanEn := true,
           frame := 2 ^ 32 - 1, line := 700, sink := ⟨3, 4, true⟩, maxRate := 3, maxLanes := 4 }

def changing (step : Nat) (train : Bool) : Option ModeChange := some ⟨none, 1, 0, 1, step, false, train⟩

theorem test_chartPort : (let c := fun (s : State) => s.dev.cap.chart
    (c (after (charting 1 none true) .chartFrameStart)).frame = 0 ∧ (c (after (charting 1 none true) .chartFrameStart)).line = 0 ∧
    ((c (after (charting 1 (changing 2 false) true) .chartFrameStart)).change.map ModeChange.step) = some 3 ∧
    ((c (after (charting 1 (changing 1 true) false) .chartFrameStart)).change.map ModeChange.step) = some 1 ∧
    (c (after (charting 1 none true) .chartLatchPoint)).line = 768 ∧
    (c (after (charting 1 none true) (.chartUnderrun 767 3))).underruns = 1 ∧
    (c (after (charting 1 none true) (.chartUnderrun 768 3))).underruns = 0 ∧
    (c (after (charting 1 none true) .hpdLoss)).linkUp = false ∧
    (c (after (charting 1 none false) (.linkTrainingDone true))).linkUp = true ∧
    (c (after (charting 1 none false) (.linkTrainingDone false))).linkUp = false ∧
    (c (after (charting 1 (changing 1 true) false) (.linkTrainingDone true))).linkUp = true ∧
    (c (after (charting 1 (changing 1 false) false) (.linkTrainingDone true))).linkUp = false ∧
    (c (after (charting 1 none true) (.hpdIrq false))).linkUp = false ∧
    (c (after (charting 1 none true) (.hpdIrq true))).linkUp = true ∧
    (c (after (charting 0 none true) (.hpdReturn ⟨2, 4, false⟩))).sink = ⟨2, 4, false⟩ ∧
    (c (after (charting 1 none true) (.hpdReturn ⟨2, 4, false⟩))).linkUp = false) := by decide +kernel

/-- The last black frame ends and the mode runs; a sink that no configuration fits takes the port to OFF; a failed training
goes on with the next configuration. -/
theorem test_chart_more : (let c := fun (s : State) => s.dev.cap.chart
    (c (after (charting 1 (changing 4 false) true) .chartFrameStart)).change = none ∧
    (c (after (charting 1 none true) (.hpdReturn ⟨0, 0, false⟩))).mode = 0 ∧
    ((c (after (charting 1 (changing 1 true) false) (.linkTrainingDone false))).change.map fun m => (m.rate, m.lanes)) = some (0, 2) ∧
    (c (after (charting 1 (some ⟨none, 1, 3, 4, 1, false, true⟩) false) (.linkTrainingDone false))).mode = 0 ∧
    (c (after (charting 1 (some ⟨none, 0, 0, 0, 0, false, false⟩) true) .chartFrameStart)).mode = 0) := by decide +kernel

/-- HPD back, and a failed link, while a mode change trains or sends black frames; nothing opens while the PLL re-locks. -/
theorem test_chart_change : (let c := fun (s : State) => s.dev.cap.chart
    let locking := { charting 1 none true with dev := (charting 1 none true).dev.onTb fun t =>
      { t with chart := { t.chart with reacquiring := true } } }
    ((c (after (charting 1 (changing 1 false) true) (.hpdReturn ⟨3, 4, true⟩))).change.map ModeChange.needTrain) = some true ∧
    ((c (after (charting 1 (changing 2 false) true) (.hpdReturn ⟨3, 4, true⟩))).change.map ModeChange.step) = some 2 ∧
    (c (after (charting 1 (changing 2 false) true) (.hpdReturn ⟨0, 0, false⟩))).change = none ∧
    (c (after (charting 1 (changing 3 false) false) (.linkTrainingDone true))).linkUp = true ∧
    ((c (after (charting 1 (changing 1 false) true) (.hpdIrq false))).change.map ModeChange.needTrain) = some true ∧
    (c (after (charting 1 (changing 0 false) true) (.hpdReturn ⟨0, 0, false⟩))).mode = 0 ∧
    (c (after locking .chartFrameStart)).frame = 2 ^ 32 - 1 ∧ (c (after locking (.chartUnderrun 767 3))).underruns = 0) := by
  decide +kernel

theorem test_chartPort_off : after (charting 0 none false) .chartFrameStart = (charting 0 none false).settle ∧
    after (charting 0 none false) .chartLatchPoint = (charting 0 none false).settle := ⟨rfl, rfl⟩

/-- An address committed in the last line waits for the next frame's latch point; one committed before it is shown next. -/
theorem test_lateCommit : (let c := fun (late : Bool) =>
      let s := charting 1 none true
      (after { s with dev := s.dev.onChart fun y => { y with slot := some ⟨4096, 512, 1⟩, slotLate := late } } .chartLatchPoint).dev.cap.chart
    (c false).live = ⟨4096, 512, 1⟩ ∧ (c false).slot = none ∧ (c true).live = ⟨0, 0, 0⟩ ∧ (c true).slot = some ⟨4096, 512, 1⟩ ∧
    (c true).slotLate = false) := by decide +kernel

/-! ## The Atlas, the Gazetteer and the start-up -/

/-- A journal in 16 blocks of one target, of which 2 hold its metadata and 1 is bad, with words laid out. -/
def journal (st : AtlasState) (laid : Nat) : State := at_ fun d => d.onAtlas fun a =>
  ({ a with st := st, targets := [flash7], blocks := freshBlocks [flash7] [], formatted := true, usableMiB := 8, laid := laid,
            ddr := [7] } : Atlas).placeRecords.startStream [7] 1

/-- The page of 3,640 words whose first codeword is laid out is programmed once it is full; a failure makes its block bad and
takes it to another. -/
theorem test_flash : (let page := 3640
    let full := journal .open page
    let a := fun (s : State) => s.dev.atlas
    (a full).pageWords = page ∧ (a full).inflight = [⟨0, 2, false⟩] ∧ (a (journal .open 909)).inflight = [] ∧
    (a (after full (.flashProgramDone 7 false true))).programmed = page ∧
    (a (after (journal .open (page - 1)) (.flashProgramDone 7 false true))).programmed = 0 ∧
    (a (after full (.flashProgramDone 7 false false))).inflight = [⟨0, 8, false⟩] ∧
    ((a (after full (.flashProgramDone 7 false false))).blocks.map Block.grown).getD 2 false = true ∧
    (a (after full (.flashReadDone 7 .uncorrectable .journal))).codewords.getD 7 [] = [0, 0, 0, 1] ∧
    full.dev.partUp (partAtlas 7) = true ∧ (a full).opening = none ∧ (a full).formatting = none) := by decide +kernel

/-- 721 hours after its last read a block is overdue; a block with a codeword read softly moves. -/
theorem test_scrub : (let s := after (journal .open 3640) (.flashProgramDone 7 false true)
    let t := after s (.scrubPass 721 2 [.hard 96, .soft])
    (after s (.scrubPass 721 99 [])).dev.gs.flags.getLsbD flagMediaWarn = true ∧
    (after s (.scrubPass 720 99 [])).dev.gs.flags.getLsbD flagMediaWarn = false ∧ t.dev.atlas.moves.map BlockMove.src = [2] ∧
    (after s (.scrubPass 721 2 [.hard 96, .hard 0])).dev.atlas.moves = []) := by decide +kernel

/-- A sheet of 109 words at the start of the stream. -/
def sheet6 : Sheet :=
  { type := 1, source := 0, truncated := false, seq := 6, frame := 0, gen := 0, epoch := 0, body := List.replicate 100 5,
    cuts := [], place := 0, pad := false, damaged := false }

/-- Words posted in slot 0 of a state. -/
def run (s : State) (ws : List Nat) : State := { s with dev := post s.dev ws }

/-- On an open journal whose last page is part full: ATLAS_FENCE pads it and waits, fails with E_HOLDUP while power fails and
with E_MEDIA_FULL after a drop; ATLAS_SCRUB answers its report, ends at once with no data programmed, and else runs; ATLAS_OPEN
answers. -/
theorem test_atlas_open : let k := journal .open 910
    let j := { k with dev := k.dev.onAtlas fun a => { a with seqNext := 7, sheets := [sheet6] } }
    let f := fun (g : Atlas → Atlas) => run { j with dev := j.dev.onAtlas g } [0x705]
    let data := after (journal .open 3640) (.flashProgramDone 7 false true)
    let bare := fun (s : State) => { s with dev := s.dev.onAtlas fun a => { a with blocks := freshBlocks [flash7] [] } }
    let scrub := fun (s : State) (n : Nat) => (done_ (run s [0x1707, n]) (.atlasScrub 0)).1
    (done_ (f id) (.atlasFence 0)).1 = .running ∧ (after (f id) (.atlasFence 0)).dev.atlas.laid = 3640 ∧
    (done_ (f fun a => { a with powerHeld := true }) (.atlasFence 0)).2.1 = BitVec.ofNat 8 eHoldup ∧
    (done_ (f fun a => { a with dropSinceFence := true }) (.atlasFence 0)).2.1 = BitVec.ofNat 8 eMediaFull ∧
    scrub j 1 = .done ∧ scrub (bare j) 0 = .done ∧ scrub data 0 = .running ∧
    (done_ (run j [0x1702, 0x10000]) (.atlasOpen 0 [flash7])).1 = .done := by decide +kernel

/-- ATLAS_OPEN and ATLAS_FORMAT of a closed device: the same flash is recovered, another or none is not; a format erases. -/
theorem test_atlas_closed : let j := journal .closed 0
    let o := fun (s : State) (ts : List Target) => done_ (run s [0x1702, 1]) (.atlasOpen 0 ts)
    let f := fun (ts : List Target) => done_ (run j [0x1701, 0x5a5]) (.atlasFormat 0 ts)
    (o j [flash7]).1 = .running ∧ (o j []).2.1 = BitVec.ofNat 8 eMedia ∧ (o (live .ready) [flash7]).2.1 = BitVec.ofNat 8 eMedia ∧
    (f [flash7]).1 = .running ∧ (f []).2.1 = BitVec.ofNat 8 eMedia ∧
    (f [{ flash7 with oneBit := false, qualified := false }]).2.1 = BitVec.ofNat 8 eMedia := by decide +kernel

/-- ATLAS_READ of a sheet that is programmed runs, of no words answers, of a SEQ before the oldest or of more words than the
window fails with E_PARAM, and of one that is still to come with E_BUSY. -/
theorem test_atlas_read : let j := after (journal .open 3640) (.flashProgramDone 7 false true)
    let s := { j with dev := (j.dev.onAtlas fun a => { a with seqNext := 7, sheets := [sheet6] }).onCap fun c => { c with rbuf := some (0, 1) } }
    let read := fun (seq n : Nat) => done_ (run s [0x5704, 0, 0, seq, 0, n]) (.atlasRead 0)
    s.dev.cap.window = 4096 ∧
    (read 6 109).1 = .running ∧ (read 6 0).1 = .done ∧ (read 5 1).2.1 = BitVec.ofNat 8 eParam ∧
    (read 7 1).2.1 = BitVec.ofNat 8 eBusy ∧ (read 6 4097).2.1 = BitVec.ofNat 8 eParam := by decide +kernel

theorem test_scrub_closed : after (journal .closed 0) (.scrubPass 721 99 []) = (journal .closed 0).settle := rfl

/-- The last erase of a format of 8 MiB: less than 16 GiB usable. An erase that fails makes its block bad. -/
theorem test_format : (let s := at_ fun d => d.onAtlas fun a =>
      { a with targets := [flash7], blocks := freshBlocks [flash7] [], formatting := some ⟨15, [0, 14]⟩ }
    let t := after s (.flashProgramDone 7 true false)
    (t.dev.atlas.blocks.getD 0 Block.none).grown = true ∧ t.dev.atlas.formatting = some ⟨15, [14]⟩ ∧
    ((after t (.flashProgramDone 7 true true)).dev.slot 15).error = BitVec.ofNat 8 eMedia ∧
    ((after t (.flashProgramDone 7 true true)).dev.atlas.blocks.getD 14 Block.none).erases = 1) := by decide +kernel

/-- Recovery reads a checkpoint's copy: one that decodes gives the place to go on from, one that does not the next copy. -/
theorem test_recover : (let s := at_ fun d => d.onAtlas fun a =>
      { a with st := .closed, targets := [flash7], blocks := freshBlocks [flash7] [], formatted := true
               opening := some ⟨some 15, [(7, 910), (7, 0)], none⟩ }
    let o := fun (q : ReadQuality) => (after s (.flashReadDone 7 q .journal)).dev.atlas.opening
    o .uncorrectable = some ⟨some 15, [(7, 0)], none⟩ ∧ (o .soft).bind AtlasOpening.at_ ≠ none) := by decide +kernel

theorem test_holdup : (let w := { State.reset with watch := { State.reset.watch with holdup := some ⟨[], none⟩ } }
     (after w (.holdupMeasured 4095)).watch.holdup = none) ∧ State.reset.watch.holdup = none := by decide +kernel

/-- The board of the example of R372: 100 µF, 5,000 mV, a divider of 10. -/
def exampleBoard : BitVec 512 :=
  let bytes : List Nat := [0, 0, 100, 0x13, 0x88, 0x0A, 0] ++ List.replicate 53 0
  let crc := crc32 bytes
  let all := bytes ++ [crc / 2 ^ 24, crc / 2 ^ 16 % 256, crc / 2 ^ 8 % 256, crc % 256]
  BitVec.ofNat 512 (all.foldr (fun b n => b + 256 * n) 0)

/-- At code 2,816 the store of slot 0 goes on, to bank A with SEQUENCE 1; at 2,815 it fails with E_HOLDUP (R371, R372). -/
theorem test_holdup_store : let s := posted .ready [0x801]
    let u := { s with
      watch := { s.watch with holdup := some ⟨[], some (0, 0, State.reset.capture defaultHostOwned true true)⟩
                              gaz := { s.watch.gaz with board := exampleBoard } }
      dev := s.dev.updSlot 0 fun x => { x with st := .running } }
    let t := fun (n : Nat) => after u (.holdupMeasured n)
    u.dev.underWay 0 0x801 = true ∧ ((t 2815).dev.slot 0).error = 0x20 ∧ (t 2815).watch.gaz.job = none ∧
    (t 2816).watch.holdupResult = (11000, 4800, 100, 5000) ∧
    ((t 2816).watch.gaz.job.bind fun j => match j with
      | .store slot b k e => some (slot, b, k.sequence, e)
      | _ => none) = some (some 0, false, 1, 4800) := by decide +kernel

/-- A store that ends well stands in bank B. -/
def storing : State :=
  { State.reset with watch := { State.reset.watch with gaz := { Gazetteer.blank with
    job := some (.store none true
      { magic := bankMagic, sequence := 1, format := 0, gen := 0, crc := 0, payload := [], writer := 0,
        settings := State.reset.capture defaultHostOwned true true, bad := false } 5) } } }

theorem test_gazetteerWrite : ((after storing (.gazetteerWriteDone true)).watch.gaz.bankB.map Bank.sequence) = some 1 ∧
    (after storing (.gazetteerWriteDone true)).watch.gaz.job = none ∧ State.reset.watch.gaz.job = none := by decide +kernel

theorem test_boardUpdate : (after State.reset (.gzBoardUpdate 1)).watch.gaz.board = 1 ∧
    (after (live .ready) (.gzBoardUpdate 1)).watch.gaz.board = 0 := by decide +kernel

/-- PWR_FAIL_N falls: the fence in flight fails with E_HOLDUP. -/
theorem test_pwrFail : let s := at_ fun d => (d.onAtlas fun a => { a with fences := [(15, 1)] }).updSlot 15 fun x => { x with st := .running }
    ((after s .pwrFail).dev.slot 15).error = 0x20 ∧ (after s .pwrFail).dev.atlas.powerHeld = true ∧
    (after (after s .pwrFail) .pwrFailClear).dev.atlas.powerHeld = false := by decide +kernel

def straps (b : BitVec 2) : Straps := ⟨b, 0, 0⟩

/-- The rails inside their windows. -/
def railed (w : Watch) : Watch :=
  { w with monitors := w.monitors.mapNum fun m (x : Monitor) => if m < 8 then { x with state := 0 } else x }

/-- Slots A and B with good images; B has the higher ACT_SEQ. -/
def twoImages : State :=
  let x := FwSlot.written signedImage
  { State.reset with watch := { railed Watch.reset with gaz := { Gazetteer.blank with
    keys := testKeys, slotA := x.activated 1, slotB := x.activated 2 } } }

theorem test_rom : (twoImages.watch.gaz.validImage true).isSome = true ∧
    (after twoImages (.perstNRelease (straps 0))).boot.activeSlot = 2 ∧
    (after twoImages (.perstNRelease (straps 1))).boot.activeSlot = 1 ∧
    (let blank := { twoImages with watch := railed Watch.reset }
     (after blank (.perstNRelease (straps 1))).boot.activeSlot = 0 ∧ (after blank (.perstNRelease (straps 0))).boot.running = true) ∧
    (after { State.reset with watch := { monitorBelow.watch with held := false } } (.perstNRelease (straps 0))).watch.held = true ∧
    ((posted .ready [1]).boot.activeSlot < 4) := by decide +kernel

theorem test_resets : (let s := live .surveying
    s.watch.perstN = true ∧ (after s .perstNAssert).dev.gs.op = .boot ∧ (after s .perstNAssert).watch.perstN = false ∧
    (after s .powerLoss).watch.powered = false ∧ (after s (.powerOnReset (straps 3))).watch.straps = straps 3 ∧
    after State.reset .perstNAssert = State.reset.settle ∧
    after (after s .powerLoss) .powerLoss = (after s .powerLoss).settle) := by decide +kernel

/-- The four ADPLLs locked. -/
def lockAll (d : Dev) : Dev := d.onTb fun t =>
  { t with meridian := { t.meridian with locked := true }, engine := { t.engine with locked := true },
           store := { t.store with locked := true }, chart := { t.chart with locked := true } }

/-- BOOT_END: no image, SAFE 0x10, once all are locked; with image, settings and start-up calibration, READY; without settings, BOOT. -/
def bootEnding (slot : Nat) (ready : Bool) : State :=
  let s := booting
  { s with boot := { s.boot with activeSlot := slot, loaded := ready }
           dev := (lockAll s.dev).onCal fun c => { c with startDone := ready } }

theorem test_bootEnd : (after (bootEnding 0 true) .bootEnd).dev.gs.faultCode = 0x10 ∧
    (after (bootEnding 0 true) .bootEnd).dev.gs.op = .safe ∧ (after (bootEnding 3 true) .bootEnd).dev.gs.op = .ready ∧
    (after (bootEnding 3 false) .bootEnd).dev.gs.op = .boot ∧ (bootEnding 3 true).boot.activation = none ∧
    (after { booting with boot := { booting.boot with activeSlot := 0 } } .bootEnd).dev.gs.op = .boot ∧
    after State.reset .bootEnd = State.reset.settle := by decide +kernel

/-- A host load: UPDATE_FIRMWARE posted in slot 0 while the ROM waits, of a good layout with the link up or down, or bad. -/
def loading (ws : List Nat) (link : Bool) : State :=
  let s := live .boot
  { s with boot := { s.boot with running := true, activeSlot := 3 }
           dev := (post (lockAll s.dev) ws).onHost fun h => { h with link := { h.link with linkUp := link, busMaster := link } } }

def updateWords : List Nat := [0x4803, 0, 0, 8192, 0]

theorem test_hostLoad : (loading updateWords true).awaitsLoad = true ∧ ((loading updateWords true).dev.cmdOf 0).loadGood = true ∧
    (after (loading updateWords true) .hostLoad).boot.loading = true ∧
    ((after (loading updateWords false) .hostLoad).dev.slot 0).resp.getD 0 0 = 0xFFF000060 ∧
    ((after (loading [0x001] true) .hostLoad).dev.slot 0).resp.getD 0 0 = 0xFFF000070 := by decide +kernel

/-- UPDATE_FIRMWARE with the link up runs in UPDATING. -/
theorem test_updateFirmware : let t := after (run awake updateWords) (.updateFirmware 0)
    (t.dev.slot 0).st = .running ∧ t.dev.gs.op = .updating ∧ t.boot.update = some (0, true, 8192) := by decide +kernel

/-- ACTIVATE_FIRMWARE of a valid image takes the slot, where no write of the Gazetteer is in progress. -/
theorem test_activate : let a := run { live .ready with watch := { (live .ready).watch with gaz := twoImages.watch.gaz } } [0x1804, 2]
    (a.watch.gaz.validImage true).isNone = false ∧ a.watch.gaz.job.isSome = false ∧ storing.watch.gaz.job.isSome = true ∧
    (after a (.activateFirmware 0)).boot.activeSlot = 2 := by decide +kernel

/-- An update that waits for its image: of a good one the slot becomes invalid and two writes follow, the second of which makes
it valid; of none it is E_LINK, and a write that fails is E_NVM. -/
def updating : State :=
  let s := live .updating
  { s with watch := { s.watch with gaz := { Gazetteer.blank with keys := testKeys } }
           boot := { Boot.reset with update := some (0, true, 1025) }
           dev := s.dev.updSlot 0 fun x => { x with st := .running, cmd := fit 32 0 [0x4803, 0, 0, 1025, 2] } }

theorem test_update : let t := after updating (.imageDmaReadDone (some signedImage))
    let once := after t (.gazetteerWriteDone true)
    let twice := after once (.gazetteerWriteDone true)
    t.boot.update = none ∧ t.watch.gaz.job = some (.update (some 0) true signedImage 2) ∧
    once.watch.gaz.job = some (.update (some 0) true signedImage 1) ∧ twice.watch.gaz.job = none ∧
    twice.watch.gaz.validImage true = some signedImage ∧ once.watch.gaz.validImage true = none ∧ (twice.dev.slot 0).st = .done ∧
    ((after once (.gazetteerWriteDone false)).dev.slot 0).error = BitVec.ofNat 8 eNvm ∧
    ((after updating (.imageDmaReadDone none)).dev.slot 0).error = BitVec.ofNat 8 eLink := by decide +kernel

/-- A host load that waits for its image: a good one is taken and its command waits for the end of BOOT; of none it is E_LINK. -/
theorem test_hostLoad_image : let s := after (loading [0x4803, 0, 0, 1025, 0] true) .hostLoad
    let k := { s with watch := { s.watch with gaz := { s.watch.gaz with keys := testKeys } } }
    let t := after k (.imageDmaReadDone (some signedImage))
    k.boot.loading = true ∧ t.boot.hostImage = some signedImage ∧ t.boot.loadDone = true ∧ (t.dev.slot 0).st = .posted ∧
    ((after s (.imageDmaReadDone (some signedImage))).dev.slot 0).resp.getD 0 0 = 0xFFF000070 ∧
    ((after k (.imageDmaReadDone none)).dev.slot 0).resp.getD 0 0 = 0xFFF000060 := by decide +kernel

theorem test_hostLoad_none : after (live .ready) .hostLoad = (live .ready).settle := rfl

theorem test_imageRead : (let s := { live .updating with boot := { Boot.reset with update := some (0, true, 8192) } }
     s.boot.loading = false ∧ s.boot.update = some (0, true, 8192)) ∧ (live .ready).boot.update = none := by decide +kernel

/-! ## Values that the spec works out -/

/-- Examples of BF36: 0; 1 gr² is 2^40 units, mantissa 2^29 with exponent 11; the largest value; saturation (R210). -/
theorem test_bf36 : bfCode 0 1 = (0, false) ∧ bfCode (2 ^ 40) 1 = (BitVec.ofNat 36 (11 * 2 ^ 30 + 2 ^ 29), false) ∧
    bfCode (2 ^ 30 - 1) 1 = (BitVec.ofNat 36 (2 ^ 30 - 1), false) ∧
    bfCode (2 ^ 93) 1 = (BitVec.ofNat 36 (2 ^ 36 - 1), true) := by decide +kernel

end Sys2Proof.Tests
end

section
/-! Acceptance: every mailbox command is refused by the general checks in their order, and what a refusal leaves (R297). -/

namespace Sys2Proof.Machine

/-- What a refusal of the general checks needs of a mailbox command: its opcode is in the table, and a fault in its words
leaves the command interface alone, the rest of the device too but for chunks (R326), and answers nothing behind the fault
word but for ATLAS_READ (R330). -/
structure MbCommand.FaultsPlainly (m : MbCommand) : Prop where
  opcode : m.form.opcode ∈ opcodes
  host : ∀ d c, (m.onFault d c).host = d.host
  fw : ∀ d c, (m.onFault d c).fw = d.fw
  device : m.form ≠ mbCoefficientChunk.form → m.form ≠ mbDefineMask.form → ∀ d c, m.onFault d c = d
  resp : m.form ≠ mbAtlasRead.form → ∀ d, m.faultResp d = []

/-- A command that keeps neither an effect nor an answer for a fault in its words. -/
theorem MbCommand.FaultsPlainly.of_default {m : MbCommand} (hop : m.form.opcode ∈ opcodes)
    (hf : m.onFault = fun d _ => d) (hr : m.faultResp = fun _ => []) : m.FaultsPlainly :=
  ⟨hop, fun _ _ => by rw [hf], fun _ _ => by rw [hf], fun _ _ _ _ => by rw [hf], fun _ _ => by rw [hr]⟩

theorem Dev.coefDiscard_host (d : Dev) (c : Cmd) : (d.coefDiscard c).host = d.host :=
  d.when_keeps _ _ Dev.host fun _ => rfl

theorem Dev.coefDiscard_fw (d : Dev) (c : Cmd) : (d.coefDiscard c).fw = d.fw :=
  d.when_keeps _ _ Dev.fw fun _ => rfl

theorem Dev.maskDiscard_host (d : Dev) (c : Cmd) : (d.maskDiscard c).host = d.host :=
  d.when_keeps _ _ Dev.host fun _ => rfl

theorem Dev.maskDiscard_fw (d : Dev) (c : Cmd) : (d.maskDiscard c).fw = d.fw :=
  d.when_keeps _ _ Dev.fw fun _ => rfl

theorem mailbox_faultsPlainly {i : Instr} {slot : SlotId} {m : MbCommand} (h : mailboxOf i = some (slot, m)) :
    m.FaultsPlainly := by
  cases i <;> simp only [mailboxOf, Option.some.injEq, Prod.mk.injEq, reduceCtorEq] at h <;> obtain ⟨rfl, rfl⟩ := h
  case coefficientChunk =>
    exact ⟨by decide, Dev.coefDiscard_host, Dev.coefDiscard_fw, fun h => absurd rfl h, fun _ _ => rfl⟩
  case defineMask => exact ⟨by decide, Dev.maskDiscard_host, Dev.maskDiscard_fw, fun _ h => absurd rfl h, fun _ _ => rfl⟩
  case atlasRead => exact ⟨by decide, fun _ _ => rfl, fun _ _ => rfl, fun _ _ _ _ => rfl, fun h => absurd rfl h⟩
  all_goals exact .of_default (of_decide_eq_true rfl) rfl rfl

/-! ## What follows the acceptance -/

/-- Whether a partition is up is in the firmware's part of the device. -/
theorem Dev.partUp_congr {d e : Dev} (h : e.fw = d.fw) (p : Nat) : e.partUp p = d.partUp p := by
  simp [Dev.partUp, Dev.part, h]

theorem State.afterCompass_of_fw {s t : State} (h : t.dev.fw = s.dev.fw) (slot : Nat) : s.afterCompass t slot = t := by
  simp [State.afterCompass, Dev.partUp_congr h]

theorem State.afterHost_of_fw {s t : State} (h : t.dev.fw = s.dev.fw) : s.afterHost t = t := by
  unfold State.afterHost
  split <;> simp [Dev.partUp_congr h]

theorem State.activated_of_fw {s t : State} (h : t.dev.fw = s.dev.fw) : s.activated t = t := by
  simp [State.activated, Dev.partUp_congr h]

/-- A mailbox command whose acceptance resets no partition is that acceptance alone: RESET_PARTITION and ACTIVATE_FIRMWARE
go on only behind a reset. -/
theorem exec_mailbox {i : Instr} {s : State} {slot : SlotId} {m : MbCommand} (h : mailboxOf i = some (slot, m))
    (hfw : (s.accept slot m).dev.fw = s.dev.fw) : exec i s = done (s.accept slot m) := by
  cases i <;> simp only [mailboxOf, Option.some.injEq, Prod.mk.injEq, reduceCtorEq] at h <;> obtain ⟨rfl, rfl⟩ := h
  case resetPartition =>
    show done (s.afterHost (s.afterCompass _ _)) = _
    rw [State.afterCompass_of_fw hfw, State.afterHost_of_fw hfw]
  case activateFirmware =>
    show done (s.activated (s.afterCompass _ _)) = _
    rw [State.afterCompass_of_fw hfw, State.activated_of_fw hfw]
  all_goals rfl

theorem Dev.reply_fw (d : Dev) (slot : Nat) (r : Reply) : (d.reply slot r).fw = d.fw := by
  by_cases h : r = .running
  · rw [h]; rfl
  · obtain ⟨m, p, he, -, -⟩ := d.finish_eq slot r.failed r.code r.out
    rw [d.reply_eq slot r h, he]
    rfl

section
variable {i : Instr} {s : State} {slot : SlotId} {m : MbCommand} {f : Fail}

/-- A command that the general checks refuse leads to the refusal's device `d` and the slot's result. -/
theorem refused_of (h : mailboxOf i = some (slot, m)) (hn : s.dev.next m.form slot = true) {d : Dev} {e : Fail}
    (ha : s.accept slot m = { s with dev := (d.reply slot (.fail e)).serveUnknown })
    (hd : d.host = (s.dev.take slot).host) (hw : d.fw = s.dev.fw) : Refused i s slot d e := by
  have hfw : (s.accept slot m).dev.fw = s.dev.fw := by
    rw [ha]
    exact ((Dev.serveUnknown_skipped _).fw.trans (d.reply_fw slot _)).trans hw
  refine ⟨_, exec_mailbox h hfw, ?_⟩
  rw [ha]
  exact s.ends { s with dev := d } slot (.fail e) (by simp) (by rw [Dev.next_opcode hn]; exact (mailbox_faultsPlainly h).opcode)
    hd rfl rfl .refl .refl

/-- A refusal for the command's words: with the command's own effect and answer. -/
theorem refused_param (h : mailboxOf i = some (slot, m)) (hn : s.dev.next m.form slot = true) (hc : f.code = eParam)
    (hf : (s.dev.take slot).refusal m.form (s.dev.cmdOf slot) (m.faultsOf (s.dev.cmdOf slot)) = some f) :
    Refused i s slot (m.onFault (s.dev.take slot) (s.dev.cmdOf slot)) { f with resp := m.faultResp (s.dev.take slot) } :=
  refused_of h hn (by rw [State.accept_refused hn hf]; simp only [if_pos hc]) ((mailbox_faultsPlainly h).host _ _)
    ((mailbox_faultsPlainly h).fw _ _)

/-- Any other refusal leaves the device. -/
theorem refused_other (h : mailboxOf i = some (slot, m)) (hn : s.dev.next m.form slot = true) (hc : f.code ≠ eParam)
    (hf : (s.dev.take slot).refusal m.form (s.dev.cmdOf slot) (m.faultsOf (s.dev.cmdOf slot)) = some f) :
    Refused i s slot s.dev f :=
  (refused_of h hn (d := s.dev.take slot) (by rw [State.accept_refused hn hf]; simp only [if_neg hc]) rfl rfl).parts rfl

end

/-- The order of the general checks: header, parameters, state, exclusion. -/
theorem Dev.refusal_header {d : Dev} {f : Form} {c : Cmd} {faults : List Nat} (h : f.badHeader c = true) :
    d.refusal f c faults = some (failAt eParam 0) := by
  simp [Dev.refusal, h]

theorem Dev.refusal_fault {d : Dev} {f : Form} {c : Cmd} {faults : List Nat} {n : Nat} (h : f.badHeader c = false)
    (hn : leastFault faults = some n) : d.refusal f c faults = some (failAt eParam n) := by
  simp [Dev.refusal, h, hn]

theorem Dev.refusal_state {d : Dev} {f : Form} {c : Cmd} {faults : List Nat} (h : f.badHeader c = false)
    (hn : leastFault faults = none) (hl : c.legalIn d.judged = false) : d.refusal f c faults = some (failPlain eState) := by
  simp [Dev.refusal, h, hn, hl]

theorem Dev.refusal_excluded {d : Dev} {f : Form} {c : Cmd} {faults : List Nat} (h : f.badHeader c = false)
    (hn : leastFault faults = none) (hl : c.legalIn d.judged = true) (hx : d.excluded c = true) :
    d.refusal f c faults = some (failPlain eBusy) := by
  simp [Dev.refusal, h, hn, hl, hx]

/-- Settles O14: each check of acceptance gives its refusal, and `State.ends` says what a refusal leaves. -/
theorem acceptanceRefusesInOrder : Obligations.AcceptanceRefusesInOrder := by
  intro i s slot m h hn
  have hp := mailbox_faultsPlainly h
  refine ⟨fun h1 h2 => hp.device h1 h2 _ _, fun h1 => hp.resp h1 _, fun hb => ?_, fun hb n hf => ?_, fun hb hf hl => ?_,
    fun hb hf hl hx => ?_⟩
  · exact refused_param h hn rfl (Dev.refusal_header hb)
  · exact refused_param h hn rfl (Dev.refusal_fault hb hf)
  · exact refused_other h hn (by decide) (Dev.refusal_state hb hf hl)
  · exact refused_other h hn (by decide) (Dev.refusal_excluded hb hf hl hx)

end Sys2Proof.Machine
end

section
/-! The state right after reset: it is settled, and its registers hold the values that the spec states. -/

namespace Sys2Proof.Machine

/-! ## The state right after reset -/

theorem reset_perstN : State.reset.watch.perstN = false := rfl

/-- No entry of ER_WATCH is enabled at reset. -/
theorem reset_entry_disabled (i : Nat) : (State.reset.watch.entries.getD i WatchEntry.reset).enable = false := by
  have h : State.reset.watch.entries = List.replicate 32 WatchEntry.reset := rfl
  simp only [h, List.getD_eq_getElem?_getD, List.getElem?_replicate]
  split <;> rfl

/-- Settles O3: at reset PERST_N is asserted, so the relay owes nothing, and no entry of ER_WATCH is enabled. -/
theorem resetIsSettled : Obligations.ResetIsSettled where
  signals := rfl
  posted := rfl
  faultN := rfl
  alert := nofun
  alertPin := nofun
  hWake := nofun
  watched i _ e he hen := by rw [he, reset_entry_disabled i] at hen; cases hen
  messages h := by rw [reset_perstN] at h; cases h
  cores h := by rw [reset_perstN] at h; cases h
  levels h := by rw [reset_perstN] at h; cases h

/-- Entry i of the legend is the grey level i (R251). -/
theorem legendReset_entry (i : Nat) (h : i < 256) :
    legendReset[i]? = some (BitVec.ofNat 24 (i * 65536 + i * 256 + i)) := by
  simp [legendReset, h]

/-- The monitors of the rails are enabled at reset, the external ones are not (R53). -/
theorem monitorsReset_enable (m : Nat) (h : m < 16) :
    (State.reset.watch.monitor m).enable = decide (m < 8) := by
  revert m
  decide

/-- Settles O12: every field is read off the reset state, list by list. -/
theorem resetValues : Obligations.ResetValues := by
  unfold Obligations.ResetValues
  intro s
  have hslots : ∀ x ∈ s.dev.host.slots, x.st = .free := fun x hx => by rw [List.eq_of_mem_replicate hx]; rfl
  have hchans : ∀ x ∈ s.dev.chans, x.a.mode = .park ∧ x.b.mode = .park ∧ x.cfg.thrA = 5461 ∧ x.cfg.hysA = 10 ∧
      x.cfg.thrB = 5461 ∧ x.cfg.hysB = 10 ∧ x.cfg.edgeSel = .both ∧ x.cfg.decim = 1 ∧ x.cfg.lineMode = none := fun x hx => by
    rw [List.eq_of_mem_replicate hx]
    exact ⟨rfl, rfl, rfl, rfl, rfl, rfl, rfl, rfl, rfl⟩
  have hsources : ∀ x ∈ s.relay.sources, x.cfg.prio = 0 ∧ x.cfg.sense = 0 ∧ x.cfg.targets = 0 ∧ x.pend = false :=
    fun x hx => by rw [List.eq_of_mem_replicate hx]; exact ⟨rfl, rfl, rfl, rfl⟩
  refine ⟨rfl, rfl, rfl, rfl, rfl, rfl, rfl, rfl, rfl, List.length_replicate, hslots, List.length_replicate, hchans,
    legendReset_entry, rfl, rfl, rfl, rfl, rfl, rfl, rfl, rfl, rfl, rfl, rfl, rfl, rfl, rfl, rfl, rfl, rfl, rfl, rfl, rfl,
    List.length_replicate, hsources, rfl, monitorsReset_enable, rfl, rfl, rfl, rfl, rfl, rfl, rfl⟩

end Sys2Proof.Machine
end

section
/-! What the entry into FAULT or SAFE leaves of the command interface and the partitions: the order of posted commands
stands, and so does a slot whose command is not under way (R315, R383). -/

namespace Sys2Proof.Machine

/-! ## Replies -/

/-- A reply changes the slots, the messages and LAST_ERROR alone. -/
theorem Dev.reply_frame (d : Dev) (s : Nat) (r : Reply) :
    ∃ l m p e, d.reply s r = { d with gs := { d.gs with lastError := e }, host := { d.host with
      slots := l, msixSent := m, msixPending := p } } ∧ l.length = d.host.slots.length ∧
      ∀ n, n ≠ s → l.getD n Slot.reset = d.slot n := by
  by_cases h : r = .running
  · subst h
    refine ⟨_, _, _, _, rfl, by simp, fun n hn => ?_⟩
    exact d.slot_updSlot_ne s n _ hn
  · obtain ⟨m, p, he, -, -⟩ := d.finish_eq s r.failed r.code r.out
    rw [d.reply_eq s r h, he]
    refine ⟨_, m, p, _, rfl, by simp, fun n hn => ?_⟩
    exact d.slot_updSlot_ne s n _ hn

/-- What no reply and no orphaned work touches: the partitions, the order of posted commands and the number of slots. -/
structure Dev.Keeps (d e : Dev) : Prop where
  parts : e.fw.parts = d.fw.parts
  queue : e.host.queue = d.host.queue
  length : e.host.slots.length = d.host.slots.length

theorem Dev.Keeps.refl {d : Dev} : d.Keeps d := ⟨rfl, rfl, rfl⟩

theorem Dev.Keeps.trans {a b c : Dev} (h : a.Keeps b) (k : b.Keeps c) : a.Keeps c :=
  ⟨k.parts.trans h.parts, k.queue.trans h.queue, k.length.trans h.length⟩

theorem Dev.reply_keeps (d : Dev) (s : Nat) (r : Reply) : d.Keeps (d.reply s r) := by
  obtain ⟨l, m, p, e, he, hl, -⟩ := d.reply_frame s r
  rw [he]
  exact ⟨rfl, rfl, hl⟩

theorem Dev.reply_slot_ne (d : Dev) (s n : Nat) (r : Reply) (h : n ≠ s) : (d.reply s r).slot n = d.slot n := by
  obtain ⟨l, m, p, e, he, -, hs⟩ := d.reply_frame s r
  rw [he]
  exact hs n h

/-! ## A slot to which nothing is owed -/

/-- No RESIZE_TRAVERSE and no scrub works for the slot. -/
structure Dev.OwesNothing (d : Dev) (n : Nat) : Prop where
  resizes : ∀ t ∈ d.cap.traverses, ∀ r ∈ t.resizes, r.slot ≠ n
  scrubs : ∀ r ∈ d.atlas.scrubs, r.slot ≠ some n

/-- A change of the device that leaves a slot to which nothing is owed, and owes it nothing. -/
structure Dev.Spares (n : Nat) (d e : Dev) : Prop extends d.Keeps e where
  slot : d.OwesNothing n → e.slot n = d.slot n
  owes : d.OwesNothing n → e.OwesNothing n

theorem Dev.Spares.refl {n : Nat} {d : Dev} : Dev.Spares n d d := ⟨.refl, fun _ => rfl, fun h => h⟩

theorem Dev.Spares.trans {n : Nat} {a b c : Dev} (h : Dev.Spares n a b) (k : Dev.Spares n b c) : Dev.Spares n a c :=
  ⟨h.toKeeps.trans k.toKeeps, fun o => (k.slot (h.owes o)).trans (h.slot o), fun o => k.owes (h.owes o)⟩

/-- A change that reaches neither the command interface nor the partitions, traverses and scrubs. -/
theorem Dev.Spares.of_eq {n : Nat} {d e : Dev} (hh : e.host = d.host) (hp : e.fw.parts = d.fw.parts)
    (ht : e.cap.traverses = d.cap.traverses) (hs : e.atlas.scrubs = d.atlas.scrubs) : Dev.Spares n d e :=
  ⟨⟨hp, by rw [hh], by rw [hh]⟩, fun _ => by simp [Dev.slot, hh], fun o => ⟨by rw [ht]; exact o.resizes, by rw [hs]; exact o.scrubs⟩⟩

theorem Dev.Spares.reply {n : Nat} {d e : Dev} (h : Dev.Spares n d e) (s : Nat) (r : Reply)
    (hs : d.OwesNothing n → n ≠ s) : Dev.Spares n d (e.reply s r) := by
  refine ⟨h.toKeeps.trans (e.reply_keeps s r), fun o => (e.reply_slot_ne s n r (hs o)).trans (h.slot o), fun o => ?_⟩
  obtain ⟨l, m, p, x, he, -, -⟩ := e.reply_frame s r
  rw [he]
  exact ⟨(h.owes o).resizes, (h.owes o).scrubs⟩

theorem Dev.Spares.ite {n : Nat} {d : Dev} {c : Prop} [Decidable c] {a b : Dev × Reply} (ha : Dev.Spares n d a.1)
    (hb : Dev.Spares n d b.1) : Dev.Spares n d (if c then a else b).1 := by
  split
  · exact ha
  · exact hb

theorem Dev.Spares.each {α : Type} {n : Nat} {d e : Dev} (l : List α) (f : Dev → α → Dev) (h : Dev.Spares n d e)
    (hf : ∀ x ∈ l, ∀ y, Dev.Spares n d y → Dev.Spares n d (f y x)) : Dev.Spares n d (e.each l f) :=
  l.foldlRecOn f h fun y hy x hx => hf x hx y hy

/-- The traverses change, and no resize that the slot waits for joins them. -/
theorem Dev.Spares.traverses {n : Nat} {d e : Dev} (hh : e.host = d.host) (hp : e.fw.parts = d.fw.parts)
    (ha : e.atlas.scrubs = d.atlas.scrubs)
    (ht : d.OwesNothing n → ∀ t ∈ e.cap.traverses, ∀ r ∈ t.resizes, r.slot ≠ n) : Dev.Spares n d e :=
  ⟨⟨hp, by rw [hh], by rw [hh]⟩, fun _ => by simp [Dev.slot, hh], fun o => ⟨ht o, by rw [ha]; exact o.scrubs⟩⟩

theorem Dev.traverse_mem {d : Dev} {k : Nat} {t : Traverse} (h : d.traverse k = some t) : t ∈ d.cap.traverses :=
  List.mem_of_find?_eq_some h

/-- A traverse changes, and every resize of it was one of a traverse before. -/
theorem Dev.updTraverse_spares (n : Nat) (d : Dev) (k : Nat) (f : Traverse → Traverse)
    (hf : ∀ t ∈ d.cap.traverses, ∀ r ∈ (f t).resizes, ∃ u ∈ d.cap.traverses, r ∈ u.resizes) :
    Dev.Spares n d (d.updTraverse k f) := by
  refine .traverses rfl rfl rfl fun o t ht r hr => ?_
  obtain ⟨u, hu, rfl⟩ := List.mem_map.1 ht
  split at hr
  · obtain ⟨v, hv, hrv⟩ := hf u hu r hr
    exact o.resizes v hv r hrv
  · exact o.resizes u hu r hr

/-! ## The Atlas's own work -/

theorem Atlas.startMove_scrubs (a : Atlas) (up : List Nat) (k : Nat) : (a.startMove up k).scrubs = a.scrubs := by
  unfold Atlas.startMove
  split
  · rfl
  · dsimp only
    split
    · split <;> rfl
    · rfl

theorem Atlas.startMoves_scrubs (up l : List Nat) : ∀ a : Atlas, (l.foldl (fun z k => z.startMove up k) a).scrubs = a.scrubs := by
  induction l with
  | nil => exact fun _ => rfl
  | cons k l ih => exact fun a => (ih _).trans (a.startMove_scrubs up k)

theorem Atlas.startStream_scrubs (up : List Nat) (k : Nat) : ∀ a : Atlas, (a.startStream up k).scrubs = a.scrubs := by
  induction k with
  | zero => exact fun _ => rfl
  | succ k ih =>
    intro a
    unfold Atlas.startStream
    dsimp only
    split
    · split
      · exact ih _
      · split
        · rfl
        · rw [ih]; split <;> rfl
    · rfl

theorem Atlas.reclaim_scrubs (a : Atlas) : a.reclaim.scrubs = a.scrubs := by
  unfold Atlas.reclaim
  dsimp only
  split
  · rfl
  · split
    · rfl
    · split <;> rfl

theorem Atlas.writeGap_scrubs (a : Atlas) (gen : BitVec 16) (epoch : Nat) : (a.writeGap gen epoch).scrubs = a.scrubs := by
  unfold Atlas.writeGap
  split
  · rfl
  · split <;> rfl

theorem Atlas.gapIf_scrubs (a : Atlas) (gen : BitVec 16) (epoch : Nat) (b : Bool) :
    (if b then a.writeGap gen epoch else a).scrubs = a.scrubs := by
  split
  · exact a.writeGap_scrubs gen epoch
  · rfl

theorem Atlas.append_or_drop_scrubs (a : Atlas) (x : NewSheet) (gen : BitVec 16) (epoch : Nat) (c : Prop) [Decidable c] :
    (if c then a.append x gen epoch else a.drop x).scrubs = a.scrubs := by
  split <;> rfl

/-- Scrubs that are over answer their own slots. -/
theorem Dev.endScrubs_spares (n : Nat) (d : Dev) : Dev.Spares n d d.endScrubs := by
  have hruns : ∀ r ∈ d.atlas.scrubs.map (fun r => { r with left := r.left.filter fun n => (d.atlas.block n).holds }),
      d.OwesNothing n → r.slot ≠ some n := by
    intro r hr o
    obtain ⟨x, hx, rfl⟩ := List.mem_map.1 hr
    exact o.scrubs x hx
  unfold Dev.endScrubs
  refine .each _ _ ⟨⟨rfl, rfl, rfl⟩, fun _ => rfl, fun o => ⟨o.resizes, fun r hr => ?_⟩⟩ fun s hs y hy => hy.reply _ _ fun o => ?_
  · exact hruns r (List.mem_filter.1 hr).1 o
  · obtain ⟨r, hr, hrs⟩ := List.mem_filterMap.1 hs
    rintro rfl
    exact hruns r (List.mem_filter.1 hr).1 o hrs

theorem Dev.runFlash_spares (n : Nat) (d : Dev) : Dev.Spares n d d.runFlash := by
  unfold Dev.runFlash
  dsimp only
  split
  · exact d.endScrubs_spares n
  · refine Dev.Spares.trans ?_ (Dev.endScrubs_spares n _)
    refine .of_eq rfl rfl rfl ?_
    rw [Dev.onAtlas_atlas, Atlas.reclaim_scrubs]
    split
    · rw [Atlas.startStream_scrubs, Atlas.startMoves_scrubs]
    · rw [Atlas.startMoves_scrubs]

theorem Dev.makeSheet_spares (n : Nat) (d : Dev) (x : NewSheet) : Dev.Spares n d (d.makeSheet x) := by
  have hfill : Dev.Spares n d (d.fillAtlas x.size) := by
    unfold Dev.fillAtlas
    split
    · exact .of_eq rfl rfl rfl rfl
    · exact .refl
  unfold Dev.makeSheet
  split
  · exact .refl
  · split
    · exact .of_eq rfl rfl rfl rfl
    · refine hfill.trans (Dev.Spares.trans ?_ (Dev.runFlash_spares n _))
      refine .of_eq rfl rfl rfl ?_
      rw [Dev.onAtlas_atlas]
      exact (Atlas.append_or_drop_scrubs ..).trans (Atlas.gapIf_scrubs ..)

theorem Dev.closeReadings_spares (n : Nat) (d : Dev) : Dev.Spares n d d.closeReadings := by
  unfold Dev.closeReadings
  split
  · exact .refl
  · refine Dev.Spares.trans ?_ (Dev.makeSheet_spares n _ _)
    exact .of_eq rfl rfl rfl rfl

/-! ## Traverses -/

theorem Dev.freezeTraverse_spares (n : Nat) (d : Dev) (k last : Nat) : Dev.Spares n d (d.freezeTraverse k last) := by
  unfold Dev.freezeTraverse
  split
  · exact .refl
  · rename_i t ht
    split
    · have h := fun u : Traverse => fun hu : u.resizes = t.resizes =>
        d.updTraverse_spares n k (fun _ => u) fun _ _ r hr => ⟨t, Dev.traverse_mem ht, hu ▸ hr⟩
      dsimp only [Dev.when]
      split
      · refine Dev.Spares.trans ?_ (Dev.makeSheet_spares n _ _)
        exact h _ rfl
      · exact h _ rfl
    · exact .refl

theorem Dev.resizeNow_spares (n : Nat) (d : Dev) (t : Traverse) (pages : Nat) (flush : Bool) :
    Dev.Spares n d (d.resizeNow t pages flush).1 :=
  .ite .refl (.ite .refl (.ite .refl (d.updTraverse_spares n t.num _ fun u hu _ hr => ⟨u, hu, hr⟩)))

theorem Dev.resizeDue_spares (n : Nat) (d : Dev) (k : Nat) : Dev.Spares n d (d.resizeDue k) := by
  unfold Dev.resizeDue
  split
  · exact .refl
  · rename_i t ht
    refine Dev.Spares.each _ _ (d.updTraverse_spares n k _ fun u hu r hr => ⟨u, hu, (List.mem_filter.1 hr).1⟩)
      fun r hr e he => ?_
    split
    · exact he
    · refine (he.trans (Dev.resizeNow_spares n _ _ _ _)).reply _ _ fun o => ?_
      exact (o.resizes t (Dev.traverse_mem ht) r (List.mem_filter.1 hr).1).symm

theorem Dev.freezeAll_spares (n : Nat) (d : Dev) : Dev.Spares n d d.freezeAll := by
  refine .each _ _ ?_ fun k _ e he => he.trans (e.resizeDue_spares n k)
  refine Dev.Spares.trans (.each _ _ .refl fun k _ e he => he.trans (e.freezeTraverse_spares n k _))
    (.traverses rfl rfl rfl fun o t ht r hr => ?_)
  obtain ⟨u, hu, rfl⟩ := List.mem_map.1 ht
  exact o.resizes u (List.mem_filter.1 hu).1 r hr

/-! ## Commands that are not legal any more -/

theorem Dev.dropChecks_frame (d : Dev) : d.dropChecks.host = d.host ∧ d.dropChecks.fw.parts = d.fw.parts := by
  unfold Dev.dropChecks
  extract_lets d1 d2
  have h1 : d1.host = d.host ∧ d1.fw.parts = d.fw.parts := by
    unfold d1
    split
    · split <;> exact ⟨rfl, rfl⟩
    · exact ⟨rfl, rfl⟩
  have h2 : d2.host = d1.host ∧ d2.fw.parts = d1.fw.parts := by
    unfold d2
    split
    · split <;> exact ⟨rfl, rfl⟩
    · exact ⟨rfl, rfl⟩
  clear_value d2 d1
  rw [← h1.1, ← h1.2, ← h2.1, ← h2.2]
  split
  · split <;> exact ⟨rfl, rfl⟩
  · exact ⟨rfl, rfl⟩

theorem Dev.dropCalibrate_frame (d : Dev) : d.dropCalibrate.host = d.host ∧ d.dropCalibrate.fw.parts = d.fw.parts := by
  unfold Dev.dropCalibrate
  split
  · split
    · exact ⟨rfl, rfl⟩
    · extract_lets d1
      have h1 : d1.host = d.host ∧ d1.fw.parts = d.fw.parts := by
        unfold d1
        split
        · split <;> exact ⟨rfl, rfl⟩
        · exact ⟨rfl, rfl⟩
      exact h1
  · exact ⟨rfl, rfl⟩

theorem Dev.dropRest_frame (d : Dev) : d.dropRest.host = d.host ∧ d.dropRest.fw.parts = d.fw.parts := ⟨rfl, rfl⟩

theorem Dev.dropOrphans_frame (d : Dev) : d.dropOrphans.host = d.host ∧ d.dropOrphans.fw.parts = d.fw.parts := by
  obtain ⟨h1, p1⟩ := d.dropChecks_frame
  obtain ⟨h2, p2⟩ := d.dropChecks.dropCalibrate_frame
  obtain ⟨h3, p3⟩ := d.dropChecks.dropCalibrate.dropRest_frame
  exact ⟨h3.trans (h2.trans h1), p3.trans (p2.trans p1)⟩

/-- A slot whose command is not under way is owed nothing once orphaned work is dropped. -/
theorem Dev.dropOrphans_owes (d : Dev) (n : Nat) (h : (d.slot n).busy = false) : d.dropOrphans.OwesNothing n := by
  have hb : d.dropChecks.dropCalibrate.slotBusy n = false := by
    have hh := d.dropChecks.dropCalibrate_frame.1.trans d.dropChecks_frame.1
    simpa [Dev.slotBusy, Dev.slot, hh] using h
  refine ⟨fun t ht r hr => ?_, fun r hr hs => ?_⟩
  · obtain ⟨u, -, rfl⟩ := List.mem_map.1 ht
    rintro rfl
    have hbr : d.dropChecks.dropCalibrate.slotBusy r.slot = true := (List.mem_filter.1 hr).2
    rw [hb] at hbr
    cases hbr
  · have hr := (List.mem_filter.1 hr).2
    simp only [hs, hb] at hr
    cases hr

theorem Dev.failSlots_keeps (d : Dev) (l : List Nat) (f : Fail) : d.Keeps (d.failSlots l f) := by
  have h : d.Keeps (d.each l fun e s => e.reply s (.fail f)) :=
    l.foldlRecOn _ .refl fun e he s _ => he.trans (e.reply_keeps s _)
  have k := Dev.dropOrphans_frame (d.each l fun e s => e.reply s (.fail f))
  exact h.trans ⟨k.2, congrArg HostLink.queue k.1, congrArg (fun x => x.slots.length) k.1⟩

/-- A command that is not among those that fail, and is not under way, stays in its slot. -/
theorem Dev.failSlots_slot (d : Dev) (l : List Nat) (f : Fail) (n : Nat) (hn : n ∉ l) (hb : (d.slot n).busy = false) :
    (d.failSlots l f).slot n = d.slot n ∧ (d.failSlots l f).OwesNothing n := by
  have h : (d.each l fun e s => e.reply s (.fail f)).slot n = d.slot n :=
    l.foldlRecOn (motive := fun e : Dev => e.slot n = d.slot n) _ rfl fun e he s hs =>
      (e.reply_slot_ne s n _ fun h => hn (h ▸ hs)).trans he
  refine ⟨?_, Dev.dropOrphans_owes _ n (by rw [h]; exact hb)⟩
  have k := (Dev.dropOrphans_frame (d.each l fun e s => e.reply s (.fail f))).1
  rw [← h]
  simp [Dev.failSlots, Dev.slot, k]

theorem Dev.failIllegal_keeps (d : Dev) (o : OpState) : d.Keeps (d.failIllegal o) := d.failSlots_keeps _ _

theorem Dev.failIllegal_slot (d : Dev) (o : OpState) (n : Nat) (hb : (d.slot n).busy = false) :
    (d.failIllegal o).slot n = d.slot n ∧ (d.failIllegal o).OwesNothing n :=
  d.failSlots_slot _ _ n (fun h => by simp [hb] at h) hb

/-! ## Entry -/

theorem Dev.msix_spares (n : Nat) (d : Dev) (v : Nat) : Dev.Spares n d (d.msix v) := by
  obtain ⟨m, p, h⟩ := d.msix_frame v
  rw [h]
  exact ⟨⟨rfl, rfl, rfl⟩, fun _ => rfl, fun o => ⟨o.resizes, o.scrubs⟩⟩

/-- What entry does after the commands that are not legal have failed. -/
theorem Dev.enterDead_spares (n : Nat) (d : Dev) (o : OpState) :
    Dev.Spares n (d.endRunNow.failIllegal o) (d.enterDead o) := by
  unfold Dev.enterDead
  generalize d.endRunNow.failIllegal o = e
  dsimp only
  have h1 : Dev.Spares n e (e.dropDeferred o).parkAll := .of_eq rfl rfl rfl rfl
  have h2 := (h1.trans (Dev.freezeAll_spares n _)).trans (Dev.closeReadings_spares n _)
  generalize (e.dropDeferred o).parkAll.freezeAll.closeReadings = x at h2
  refine h2.trans ?_
  unfold Dev.when
  split
  · refine Dev.Spares.trans ?_ (Dev.msix_spares n _ _)
    exact .of_eq rfl rfl rfl rfl
  · exact .of_eq rfl rfl rfl rfl

theorem Dev.enterDead_keeps (d : Dev) (o : OpState) : d.Keeps (d.enterDead o) := by
  have h : d.Keeps d.endRunNow := ⟨rfl, rfl, rfl⟩
  exact h.trans ((Dev.failIllegal_keeps _ o).trans (d.enterDead_spares 0 o).toKeeps)

theorem Dev.enterDead_slot (d : Dev) (o : OpState) (n : Nat) (hb : (d.slot n).busy = false) :
    (d.enterDead o).slot n = d.slot n := by
  obtain ⟨hs, ho⟩ := d.endRunNow.failIllegal_slot o n hb
  exact ((d.enterDead_spares n o).slot ho).trans hs

theorem Dev.enterDead_op (d : Dev) (o : OpState) : (d.enterDead o).gs.op = o := by
  unfold Dev.enterDead
  dsimp only
  refine (Dev.when_keeps _ _ _ (fun e => e.gs.op) fun e => ?_)
  obtain ⟨m, p, h⟩ := (e.setFlag flagFault).msix_frame 32
  rw [h]
  rfl

/-- The state that a cause leads to: FAULT for a code below 0x10 and in FAULT, else SAFE. -/
def faultTarget (op : OpState) (code : Nat) : OpState :=
  if decide (code < 0x10) || op == .fault then .fault else .safe

/-- What a cause of FAULT or SAFE leaves: the state and the code, and of the start-up and of the command interface all but
the work and the commands that it ends. -/
structure State.Faulted (s t : State) (code : Nat) : Prop extends s.dev.Keeps t.dev where
  op : t.dev.gs.op = faultTarget s.dev.gs.op code
  faultCode : t.dev.gs.faultCode = code
  running : t.boot.running = s.boot.running
  loadDone : t.boot.loadDone = s.boot.loadDone
  slot : ∀ n, (s.dev.slot n).busy = false → t.dev.slot n = s.dev.slot n

theorem State.enterFault_faulted (s : State) (code : Nat) : s.Faulted (s.enterFault code) code := by
  unfold State.enterFault
  extract_lets toFault o work s1
  have ho : o = faultTarget s.dev.gs.op code := rfl
  by_cases h : s.dev.gs.op = o
  · rw [show s1 = s from if_pos h]
    exact ⟨⟨rfl, rfl, rfl⟩, h.trans ho, rfl, rfl, rfl, fun _ _ => rfl⟩
  · rw [show s1 = { work with dev := s.dev.enterDead o } from if_neg h]
    have hk := s.dev.enterDead_keeps o
    exact ⟨⟨hk.parts, hk.queue, hk.length⟩, (s.dev.enterDead_op o).trans ho, rfl, rfl, rfl,
      fun n hb => s.dev.enterDead_slot o n hb⟩

end Sys2Proof.Machine
end

section
/-! Power failure, resets, the release of PERST_N and the end of BOOT (R8, R11, R287, R352 to R375). -/

namespace Sys2Proof.Machine

/-! ## Power failure -/

/-- Every slot of the list holds a failure with the code. -/
theorem Dev.failEach_slot (f : Fail) (n : Nat) : ∀ (l : List Nat) (d : Dev), n ∈ l → n < d.host.slots.length →
    ((d.each l fun e s => e.reply s (.fail f)).slot n).st = .failed ∧
      ((d.each l fun e s => e.reply s (.fail f)).slot n).error = BitVec.ofNat 8 f.code := by
  intro l
  induction l with
  | nil => exact fun _ h _ => nomatch h
  | cons s l ih =>
    intro d hn hl
    have hl' : n < (d.reply s (.fail f)).host.slots.length := by rw [(d.reply_keeps s _).length]; exact hl
    show (((d.reply s (.fail f)).each l _).slot n).st = _ ∧ (((d.reply s (.fail f)).each l _).slot n).error = _
    by_cases hm : n ∈ l
    · exact ih _ hm hl'
    · have hs : n = s := (List.mem_cons.1 hn).resolve_right hm
      have hrest : ((d.reply s (.fail f)).each l fun e s => e.reply s (.fail f)).slot n = (d.reply s (.fail f)).slot n :=
        l.foldlRecOn (motive := fun e : Dev => e.slot n = (d.reply s (.fail f)).slot n) _ rfl fun e he x hx =>
          (e.reply_slot_ne x n _ fun h => hm (h ▸ hx)).trans he
      rw [hrest, hs]
      obtain ⟨m, p, he, -, -⟩ := d.finish_eq s true f.code f.words
      have hfin : (d.reply s (.fail f)).slot s = _ := (congrArg (fun e : Dev => e.slot s) he).trans
        (d.slot_updSlot s s _ (hs ▸ hl))
      rw [hfin, if_pos rfl]
      exact ⟨rfl, rfl⟩

theorem Dev.reply_atlas (d : Dev) (s : Nat) (r : Reply) : (d.reply s r).atlas = d.atlas := by
  obtain ⟨l, m, p, e, he, -, -⟩ := d.reply_frame s r
  rw [he]

theorem exec_pwrFail (s : State) : let a := s.dev.atlas
    ∃ t, exec .pwrFail s = .next t ∧ t.watch.pwrFailN = false ∧
      t.dev.atlas = { (if a.laid < a.nextPage * a.pageWords then a.padLast else a) with powerHeld := true, fences := [] } ∧
      (∀ f ∈ a.fences, f.1 < s.dev.host.slots.length → (t.dev.slot f.1).st = .failed ∧
        (t.dev.slot f.1).error = BitVec.ofNat 8 eHoldup) := by
  refine ⟨_, rfl, State.settle_pwrFailN _, ?_, fun f hf hl => ?_⟩
  · rw [State.settle_atlas]
    exact Dev.each_keeps _ _ _ Dev.atlas fun e x => e.reply_atlas x _
  · rw [State.settle_slot]
    exact Dev.failEach_slot (failPlain eHoldup) f.1 _ _ (List.mem_map_of_mem hf) hl

/-! ## Resets -/

theorem Atlas.pageAgain_frame (a : Atlas) (x : PageProgram) :
    (a.pageAgain x).targets = a.targets ∧ (a.pageAgain x).formatId = a.formatId := by
  unfold Atlas.pageAgain
  dsimp only
  split <;> exact ⟨rfl, rfl⟩

/-- The flash attached and the journal's format stand when the journal closes (R11). -/
theorem Atlas.close_frame (a : Atlas) : a.close.targets = a.targets ∧ a.close.formatId = a.formatId := by
  show (a.inflight.foldr (fun x y => y.pageAgain x) a).targets = _ ∧ (a.inflight.foldr (fun x y => y.pageAgain x) a).formatId = _
  generalize a.inflight = l
  induction l with
  | nil => exact ⟨rfl, rfl⟩
  | cons x l ih =>
    obtain ⟨ht, hf⟩ := Atlas.pageAgain_frame (l.foldr (fun x y => y.pageAgain x) a) x
    exact ⟨ht.trans ih.1, hf.trans ih.2⟩

/-- The main part at its reset values, the flash and the Gazetteer as they were: what `s` comes to. -/
structure State.Cleared (s t : State) : Prop where
  op : t.dev.gs.op = .boot
  flags : t.dev.gs.flags = 0
  running : t.dev.tb.running = false
  frame : t.dev.tb.frame = 0
  slots : ∀ x ∈ t.dev.host.slots, x.st = .free
  mem : t.dev.cap.mem = []
  items : t.dev.survey.items = []
  perstN : t.watch.perstN = false
  boot : t.boot = Boot.reset
  pending : t.pending = s.pending
  targets : t.dev.atlas.targets = s.dev.atlas.targets
  formatId : t.dev.atlas.formatId = s.dev.atlas.formatId
  bankA : t.watch.gaz.bankA = s.watch.gaz.bankA
  bankB : t.watch.gaz.bankB = s.watch.gaz.bankB
  slotA : t.watch.gaz.slotA = s.watch.gaz.slotA
  slotB : t.watch.gaz.slotB = s.watch.gaz.slotB
  stack : t.relay.stack = []

theorem slots_free_of_reset {x : Slot} (h : x ∈ HostLink.reset.slots) : x.st = .free := by
  rw [List.eq_of_mem_replicate h]; rfl

theorem State.Cleared.settle {s t : State} (h : s.Cleared t) : s.Cleared t.settle := by
  constructor <;> simp [h.op, h.flags, h.running, h.frame, h.mem, h.items, h.perstN, h.boot, h.pending, h.targets,
    h.formatId, h.bankA, h.bankB, h.slotA, h.slotB, h.stack]
  exact h.slots

theorem State.mainReset_cleared (s : State) : s.Cleared s.mainReset :=
  ⟨rfl, rfl, rfl, rfl, fun _ => slots_free_of_reset, rfl, rfl, rfl, rfl, rfl, s.dev.atlas.close_frame.1,
    s.dev.atlas.close_frame.2, rfl, rfl, rfl, rfl, rfl⟩

theorem State.powerLoss_cleared (s : State) : s.Cleared s.powerLoss := { s.mainReset_cleared with perstN := rfl }

theorem State.powerOn_cleared (s : State) (straps : Straps) : s.Cleared (s.powerOn straps) :=
  { s.mainReset_cleared with perstN := rfl }

theorem Watch.endBorrow_frame (w : Watch) (n : Nat) :
    (w.endBorrow n).powered = w.powered ∧ (w.endBorrow n).entries = w.entries := by
  unfold Watch.endBorrow
  split <;> exact ⟨rfl, rfl⟩

/-! ## The release of PERST_N -/

theorem Watch.railsBad_eq_false (w : Watch) :
    w.railsBad = false ↔ ∀ k, k < 8 → (w.monitor k).enable = true ∧ (w.monitor k).state = 0 := by
  simp [Watch.railsBad]

theorem State.perstRelease_held {s : State} (straps : Straps) (hp : s.watch.perstN = false) (hr : s.watch.railsBad = true) :
    let t := s.perstRelease straps
    t.watch.straps = straps ∧ t.watch.held = true ∧ t.watch.perstN = false := by
  have h : ({ s.watch with straps := straps, held := true } : Watch).railsBad = true := hr
  have he : s.perstRelease straps = { s with watch := { s.watch with straps := straps, held := true } } := by
    simp [State.perstRelease, State.mainReady, h]
  rw [he]
  exact ⟨rfl, rfl, hp⟩

theorem State.perstRelease_starts {s : State} (straps : Straps) (hr : s.watch.railsBad = false) :
    let t := s.perstRelease straps
    t.watch.straps = straps ∧ t.watch.held = false ∧ t.watch.perstN = true ∧ t.boot.running = true ∧ t.boot.loaded = false := by
  have h : ({ s.watch with straps := straps, held := true } : Watch).railsBad = false := hr
  simp [State.perstRelease, State.mainReady, h, Boot.reset]

end Sys2Proof.Machine
end

section
/-! The end of BOOT (R360, R361, R364, R365, R375). -/

namespace Sys2Proof.Machine

/-! ## The parts of the end of BOOT -/

theorem Dev.part_updPart (d : Dev) (p : Nat) (f : Partition → Partition) :
    (d.updPart p f).part p = if p < d.fw.parts.length then f (d.part p) else Partition.reset := by
  simp only [Dev.part, Dev.updPart_fw, List.getD_eq_getElem?_getD, List.getElem?_modify_eq]
  split
  · rename_i h; simp [List.getElem?_eq_getElem h]
  · rename_i h; simp [List.getElem?_eq_none (Nat.le_of_not_lt h)]

theorem Dev.part_of_parts {d e : Dev} (h : e.fw.parts = d.fw.parts) (p : Nat) : e.part p = d.part p := by
  simp [Dev.part, h]

/-- A partition that is taken out of reset is out of it. -/
theorem Dev.updPart_lifted (d : Dev) (p : Nat) : ((d.updPart p fun x => { x with inReset := false }).part p).inReset = false := by
  rw [Dev.part_updPart]
  split <;> rfl

/-- Firmware runs: COMPASS is out of reset, and BOOT is over. -/
theorem State.firmwareUp_compass (s : State) : (s.firmwareUp.dev.part partCompass).inReset = false :=
  Dev.updPart_lifted _ _

theorem State.raiseRollback_dev (s : State) : s.raiseRollback.dev = s.dev ∧ s.raiseRollback.boot = s.boot := by
  unfold State.raiseRollback
  split <;> exact ⟨rfl, rfl⟩

theorem Dev.clkAuto_frame (d : Dev) : d.clkAuto.gs.op = d.gs.op ∧ d.clkAuto.fw = d.fw ∧ d.clkAuto.host = d.host :=
  ⟨d.each_keeps _ _ (fun e => e.gs.op) fun _ _ => rfl, d.each_keeps _ _ Dev.fw fun _ _ => rfl,
    d.each_keeps _ _ Dev.host fun _ _ => rfl⟩

theorem Dev.autoOpen_frame (d : Dev) (pages : Nat) :
    (d.autoOpen pages).gs = d.gs ∧ (d.autoOpen pages).fw = d.fw ∧ (d.autoOpen pages).host = d.host := by
  unfold Dev.autoOpen
  split
  · split <;> exact ⟨rfl, rfl, rfl⟩
  · exact ⟨rfl, rfl, rfl⟩

/-- What the active bank has firmware do leaves the state, the partitions, the command interface and the start-up. -/
theorem State.autoStart_frame (s : State) : s.autoStart.dev.gs.op = s.dev.gs.op ∧ s.autoStart.dev.fw = s.dev.fw ∧
    s.autoStart.dev.host = s.dev.host ∧ s.autoStart.boot = s.boot := by
  unfold State.autoStart
  split
  · exact ⟨rfl, rfl, rfl, rfl⟩
  · rename_i x _
    refine ⟨?_, ?_, ?_, rfl⟩
    · exact (Dev.when_keeps _ _ _ (fun e => e.gs.op) fun e => by rw [(e.autoOpen_frame _).1]).trans
        (Dev.when_keeps _ _ _ (fun e => e.gs.op) fun e => e.clkAuto_frame.1)
    · exact (Dev.when_keeps _ _ _ Dev.fw fun e => (e.autoOpen_frame _).2.1).trans
        (Dev.when_keeps _ _ _ Dev.fw fun e => e.clkAuto_frame.2.1)
    · exact (Dev.when_keeps _ _ _ Dev.host fun e => (e.autoOpen_frame _).2.2).trans
        (Dev.when_keeps _ _ _ Dev.host fun e => e.clkAuto_frame.2.2)

/-! ## The host load that succeeded -/

/-- A host load that succeeded waits for its result. -/
structure State.LoadWaits (s : State) : Prop where
  loadDone : s.boot.loadDone = true
  st : (s.dev.slot 0).st = .posted
  queue : 0 ∈ s.dev.host.queue
  length : 0 < s.dev.host.slots.length

/-- Its slot is DONE and has left the order. -/
structure State.LoadEnded (s : State) : Prop where
  st : (s.dev.slot 0).st = .done
  error : (s.dev.slot 0).error = 0
  queue : 0 ∉ s.dev.host.queue

/-- The load's command changes the command interface and LAST_ERROR alone, and of the start-up what tells of the load. -/
theorem State.finishLoad_frame (s : State) : (∃ e, s.finishLoad.dev.gs = { s.dev.gs with lastError := e }) ∧
    s.finishLoad.dev.fw = s.dev.fw ∧ s.finishLoad.boot = { s.boot with loadDone := false } := by
  unfold State.finishLoad
  dsimp only
  split
  · refine ⟨?_, ?_, rfl⟩
    all_goals obtain ⟨m, p, he, -, -⟩ :=
      (s.dev.onHost fun h => { h with queue := h.queue.filter (· != 0) }).finish_eq 0 false eOk []
    · exact ⟨s.dev.gs.lastError, by rw [he]; rfl⟩
    · rw [he]; rfl
  · exact ⟨⟨_, rfl⟩, rfl, rfl⟩

theorem State.finishLoad_ends {s : State} (h : s.LoadWaits) : s.finishLoad.LoadEnded := by
  unfold State.finishLoad
  rw [if_pos ⟨h.loadDone, h.st, h.queue⟩]
  obtain ⟨m, p, he, -, -⟩ := (s.dev.onHost fun h => { h with queue := h.queue.filter (· != 0) }).finish_eq 0 false eOk []
  have hs := Dev.slot_updSlot (s.dev.onHost fun h => { h with queue := h.queue.filter (· != 0) }) 0 0
    (fun x => { x with st := .done, error := BitVec.ofNat 8 eOk, resp := fit 64 0 [],
                       partialWords := min 64 ([] : List Word).length, progress := 1000 }) h.length
  rw [if_pos rfl] at hs
  have hslot := (congrArg (fun e : Dev => e.slot 0) he).trans hs
  refine ⟨congrArg Slot.st hslot, congrArg Slot.error hslot, ?_⟩
  show 0 ∉ (Dev.finish _ 0 false eOk []).host.queue
  rw [he]
  show 0 ∉ s.dev.host.queue.filter (· != 0)
  simp

/-! ## What BOOT ends in -/

/-- BOOT is over in an operating state: firmware runs, COMPASS out of reset. -/
structure State.BootOver (s : State) (o : OpState) : Prop where
  op : s.dev.gs.op = o
  running : s.boot.running = false
  compass : (s.dev.part partCompass).inReset = false

theorem State.firmwareUp_over (s : State) : s.firmwareUp.BootOver s.dev.gs.op := ⟨rfl, rfl, s.firmwareUp_compass⟩

theorem State.BootOver.enter {s : State} {o : OpState} (h : s.BootOver o) (p : OpState) : (s.enter p).BootOver p :=
  ⟨rfl, h.running, h.compass⟩

theorem State.BootOver.raiseRollback {s : State} {o : OpState} (h : s.BootOver o) : s.raiseRollback.BootOver o := by
  obtain ⟨hd, hb⟩ := s.raiseRollback_dev
  exact ⟨by rw [hd]; exact h.op, by rw [hb]; exact h.running, by rw [hd]; exact h.compass⟩

theorem State.BootOver.autoStart {s : State} {o : OpState} (h : s.BootOver o) : s.autoStart.BootOver o := by
  obtain ⟨ho, hf, -, hb⟩ := s.autoStart_frame
  exact ⟨ho.trans h.op, by rw [hb]; exact h.running, by rw [Dev.part_of_parts (d := s.dev) (by rw [hf])]; exact h.compass⟩

theorem State.BootOver.finishLoad {s : State} {o : OpState} (h : s.BootOver o) : s.finishLoad.BootOver o := by
  obtain ⟨⟨e, hg⟩, hf, hb⟩ := s.finishLoad_frame
  exact ⟨by rw [hg]; exact h.op, by rw [hb]; exact h.running, by rw [Dev.part_of_parts (d := s.dev) (by rw [hf])]; exact h.compass⟩

/-- Serving the unknown opcodes and the end of the step leave that. -/
theorem State.BootOver.served {s : State} {o : OpState} (h : s.BootOver o) : s.serve.settle.BootOver o := by
  have hk := s.dev.serveUnknown_skipped
  refine ⟨?_, ?_, ?_⟩
  · rw [State.settle_gs]
    show s.dev.serveUnknown.gs.op = o
    rw [hk.gs]
    exact h.op
  · rw [State.settle_boot]
    exact h.running
  · rw [Dev.part_of_parts (d := s.dev) (by rw [State.settle_fw]; exact congrArg Firmware.parts hk.fw)]
    exact h.compass

/-- The finished load's slot is not served again. -/
theorem State.LoadEnded.served {s : State} (h : s.LoadEnded) :
    (s.serve.settle.dev.slot 0).st = .done ∧ (s.serve.settle.dev.slot 0).error = 0 := by
  have hskip : 0 ∉ s.dev.skips := fun hm => by
    unfold Dev.skips at hm
    split at hm
    · exact h.queue ((List.takeWhile_sublist _).mem hm)
    · cases hm
  have hs : s.serve.settle.dev.slot 0 = s.dev.slot 0 :=
    (State.settle_slot _ 0).trans (s.dev.serveUnknown_skipped.slots 0 hskip)
  rw [hs]
  exact ⟨h.st, h.error⟩

/-! ## The recovery image -/

/-- The recovery image's state before its cause is entered has the device of `firmwareUp`. -/
theorem State.recover_faulted (s : State) :
    ∃ q : State, q.dev = s.firmwareUp.dev ∧ q.boot = s.firmwareUp.boot ∧ q.Faulted s.recover faultNoFirmware := by
  refine ⟨?_, ?_, ?_, ?fault⟩
  case fault => exact State.enterFault_faulted _ _
  · rfl
  · rfl

/-- It ends BOOT in SAFE 0x10, and in FAULT takes that code (R365, R384). -/
theorem State.recover_over (s : State) : s.recover.BootOver (if s.dev.gs.op = .fault then .fault else .safe) := by
  obtain ⟨q, hd, hb, hq⟩ := s.recover_faulted
  have h := s.firmwareUp_over
  refine ⟨?_, ?_, ?_⟩
  · rw [hq.op, hd, h.op]
    simp [faultTarget, faultNoFirmware]
  · rw [hq.running, hb, h.running]
  · rw [Dev.part_of_parts hq.parts, hd, h.compass]

theorem State.recover_faultCode (s : State) : s.recover.dev.gs.faultCode = 0x10 := by
  obtain ⟨q, -, -, hq⟩ := s.recover_faulted
  exact hq.faultCode

/-- A host load that waits does so until the recovery image has ended what is not legal in its state. -/
theorem State.LoadWaits.recover {s : State} (h : s.LoadWaits) : s.recover.LoadWaits := by
  obtain ⟨q, hd, hb, hq⟩ := s.recover_faulted
  have hslot : q.dev.slot 0 = s.dev.slot 0 := by rw [hd]; rfl
  have hbusy : (q.dev.slot 0).busy = false := by rw [hslot]; simp [Slot.busy, h.st]
  refine ⟨?_, ?_, ?_, ?_⟩
  · rw [hq.loadDone, hb]; exact h.loadDone
  · rw [hq.slot 0 hbusy, hslot]; exact h.st
  · rw [hq.queue, hd]; exact h.queue
  · rw [hq.length, hd]; exact h.length

/-! ## BOOT_END by cases -/

/-- BOOT can end now: the counters run, and the recovery image waits for the four PLLs (R361). -/
def State.BootDue (s : State) : Prop :=
  s.watch.perstN = true ∧ s.boot.running = true ∧ s.dev.tb.running = true ∧
    (s.boot.activeSlot = 0 → s.dev.tb.meridian.locked = true ∧ s.dev.tb.engine.locked = true ∧ s.dev.tb.store.locked = true ∧
      s.dev.tb.chart.locked = true)

theorem State.bootDue_iff (s : State) : s.BootDue ↔
    (s.watch.perstN && s.boot.running && s.dev.tb.running && (s.boot.activeSlot != 0 || s.dev.tb.allLocked)) = true := by
  simp only [State.BootDue, TimeBase.allLocked, Bool.and_eq_true, Bool.or_eq_true, bne_iff_ne, and_assoc]
  by_cases h : s.boot.activeSlot = 0 <;> simp +contextual [h]

theorem exec_bootEnd {s : State} (h : s.BootDue) : exec .bootEnd s = .next s.bootEnd.settle :=
  congrArg done (if_pos (s.bootDue_iff.1 h))

theorem exec_bootEnd_waits {s : State} (h : ¬s.BootDue) : Becomes .bootEnd s s :=
  congrArg done (if_neg (mt s.bootDue_iff.2 h))

theorem State.bootEnd_recovery {s : State} (h : s.boot.activeSlot = 0) : s.bootEnd = s.recover.finishLoad.serve := by
  simp [State.bootEnd, h]

theorem State.bootEnd_dead {s : State} (h : s.boot.activeSlot ≠ 0) (ho : s.dev.gs.op ≠ .boot) :
    s.bootEnd = if s.boot.loaded || s.boot.activation.isSome then s.firmwareUp.finishLoad.serve else s := by
  simp [State.bootEnd, h, ho]

theorem State.bootEnd_activated {s : State} {o : OpState} (h : s.boot.activeSlot ≠ 0) (ho : s.dev.gs.op = .boot)
    (ha : s.boot.activation = some o) : s.bootEnd =
      (if o = .ready then (s.firmwareUp.enter o).raiseRollback else s.firmwareUp.enter o).serve := by
  simp [State.bootEnd, h, ho, ha]

theorem State.bootEnd_started {s : State} (h : s.boot.activeSlot ≠ 0) (ho : s.dev.gs.op = .boot)
    (ha : s.boot.activation = none) : s.bootEnd =
      if s.boot.loaded && s.dev.cal.startDone then
        ((s.firmwareUp.enter .ready).raiseRollback.autoStart.finishLoad).serve else s := by
  simp [State.bootEnd, h, ho, ha]

/-- READY, the host load's command not finished yet. -/
theorem State.started_over (s : State) : (s.firmwareUp.enter .ready).raiseRollback.autoStart.BootOver .ready :=
  (s.firmwareUp_over.enter .ready).raiseRollback.autoStart

theorem State.LoadWaits.started {s : State} (h : s.LoadWaits) :
    (s.firmwareUp.enter .ready).raiseRollback.autoStart.LoadWaits := by
  obtain ⟨hd, hb⟩ := (s.firmwareUp.enter .ready).raiseRollback_dev
  obtain ⟨-, -, hh, hc⟩ := (s.firmwareUp.enter .ready).raiseRollback.autoStart_frame
  have hhost : (s.firmwareUp.enter .ready).raiseRollback.autoStart.dev.host = s.dev.host := by rw [hh, hd]; rfl
  refine ⟨?_, ?_, ?_, ?_⟩
  · rw [hc, hb]; exact h.loadDone
  · simp only [Dev.slot, hhost]; exact h.st
  · rw [hhost]; exact h.queue
  · rw [hhost]; exact h.length

/-- What a finished load leaves at the end of the step. -/
theorem State.LoadWaits.finished {s : State} (h : s.LoadWaits) : let t := s.finishLoad.serve.settle
    (t.dev.slot 0).st = .done ∧ (t.dev.slot 0).error = 0 ∧ t.boot.loadDone = false := by
  obtain ⟨hst, he⟩ := (State.finishLoad_ends h).served
  refine ⟨hst, he, ?_⟩
  rw [State.settle_boot]
  exact congrArg Boot.loadDone s.finishLoad_frame.2.2

theorem State.finishLoad_serve_faultCode (s : State) : s.finishLoad.serve.settle.dev.gs.faultCode = s.dev.gs.faultCode := by
  obtain ⟨⟨e, hg⟩, -, -⟩ := s.finishLoad_frame
  rw [State.settle_gs]
  show s.finishLoad.dev.serveUnknown.gs.faultCode = _
  rw [s.finishLoad.dev.serveUnknown_skipped.gs]
  show s.finishLoad.dev.gs.faultCode = _
  rw [hg]

/-- Settles O56: each event from the lemma about its function, BOOT_END by the cases of `State.bootEnd`. -/
theorem resetsAndPowerAct : Obligations.ResetsAndPowerAct := by
  intro s straps a up cleared
  have hclear : ∀ t, s.Cleared t → cleared t := fun t h =>
    ⟨h.op, h.flags, h.running, h.frame, h.slots, h.mem, h.items, h.perstN, h.boot, h.pending, h.targets, h.formatId, h.bankA,
      h.bankB, h.slotA, h.slotB, h.stack⟩
  have hgate : (s.watch.perstN || s.watch.held) = true ↔ up := by simp [up]
  have hdown : ¬up → s.watch.perstN = false ∧ s.watch.held = false := fun h => by simpa [up] using h
  refine ⟨exec_pwrFail s, rfl, fun h => ?_, fun h => ?_, fun h => ?_, fun h => ?_, ?_, fun hp hu => ?_, fun h => ?_,
    s.watch.railsBad_eq_false, ?_⟩
  · refine ⟨s.mainReset.settle, congrArg done (if_pos (hgate.2 h)), hclear _ s.mainReset_cleared.settle, ?_, ?_⟩
    · rw [State.settle_powered]; exact (s.watch.endBorrow_frame _).1
    · rw [State.settle_entries]; exact (s.watch.endBorrow_frame _).2
  · exact congrArg done (if_neg (mt hgate.1 h))
  · refine ⟨s.powerLoss.settle, congrArg done (if_pos h), hclear _ s.powerLoss_cleared.settle, ?_, ?_, ?_⟩
    · rw [State.settle_powered]; rfl
    · rw [State.settle_gaz]; rfl
    · rw [State.settle_atlas]; rfl
  · exact congrArg done (if_neg (by simp [h]))
  · refine ⟨(s.powerOn straps).settle, rfl, hclear _ (s.powerOn_cleared straps).settle, ?_, ?_, ?_, ?_⟩
    · rw [State.settle_powered]; rfl
    · rw [State.settle_straps]; rfl
    · rw [State.settle_entries]; rfl
    · rw [State.settle_gaz]; rfl
  · obtain ⟨hn, hh⟩ := hdown hu
    refine ⟨(s.perstRelease straps).settle, congrArg done (if_pos (by simp [hp, hn, hh])), ?_, fun hr => ?_, fun hr => ?_⟩
    · rw [State.settle_straps]
      cases hr : s.watch.railsBad
      · exact (State.perstRelease_starts straps hr).1
      · exact (State.perstRelease_held straps hn hr).1
    · obtain ⟨-, hheld, hperst⟩ := State.perstRelease_held straps hn hr
      exact ⟨(State.settle_held _).trans hheld, (State.settle_perstN _).trans hperst⟩
    · obtain ⟨-, hheld, hperst, hrun, hload⟩ := State.perstRelease_starts straps hr
      rw [State.settle_held, State.settle_perstN, State.settle_boot]
      exact ⟨hheld, hperst, hrun, hload⟩
  · refine congrArg done (if_neg ?_)
    rcases h with h | h | h <;> simp [h]
  · intro locked on chosen ready ends
    have hon : on ↔ s.BootDue := Iff.rfl
    have hends : ∀ {t : State} {o : OpState}, on → s.bootEnd = t.serve → t.BootOver o → ends o := fun hb he h =>
      ⟨_, exec_bootEnd hb, he ▸ h.served.op, he ▸ h.served.running, he ▸ h.served.compass⟩
    have hload : ∀ {t : State}, on → s.bootEnd = t.finishLoad.serve → t.LoadWaits →
        ∃ u, exec .bootEnd s = .next u ∧ (u.dev.slot 0).st = .done ∧ (u.dev.slot 0).error = 0 ∧ u.boot.loadDone = false :=
      fun hb he h => ⟨_, exec_bootEnd hb, he ▸ h.finished⟩
    have hstarted : chosen → s.boot.activation = none → ready →
        s.bootEnd = (s.firmwareUp.enter .ready).raiseRollback.autoStart.finishLoad.serve := fun hc ha hr => by
      rw [State.bootEnd_started hc.2.2 hc.2.1 ha, if_pos (by simp [hr.1, hr.2])]
    refine ⟨fun hb => exec_bootEnd_waits hb, fun hb h0 => ⟨?_, ?_⟩, fun hd hst hq hl hcase => ?_, fun o hc ha => ?_,
      fun hc ha hr => ?_, fun hc ha hr => ?_, fun hb ho h0 hl => ?_, fun hb ho h0 hl ha => ?_⟩
    · exact hends hb (State.bootEnd_recovery h0) s.recover_over.finishLoad
    · refine ⟨_, exec_bootEnd hb, ?_⟩
      rw [State.bootEnd_recovery h0, State.finishLoad_serve_faultCode, State.recover_faultCode]
    · have hw : s.LoadWaits := ⟨hd, hst, hq, hl⟩
      rcases hcase with ⟨hb, h0⟩ | ⟨hc, ha, hr⟩
      · exact hload hb (State.bootEnd_recovery h0) hw.recover
      · exact hload hc.1 (hstarted hc ha hr) hw.started
    · refine hends hc.1 (State.bootEnd_activated hc.2.2 hc.2.1 ha) ?_
      split
      · exact (s.firmwareUp_over.enter o).raiseRollback
      · exact s.firmwareUp_over.enter o
    · exact hends hc.1 (hstarted hc ha hr) s.started_over.finishLoad
    · refine (exec_bootEnd hc.1).trans ?_
      rw [State.bootEnd_started hc.2.2 hc.2.1 ha, if_neg (by simpa [ready] using hr)]
    · refine hends hb ?_ s.firmwareUp_over.finishLoad
      rw [State.bootEnd_dead h0 ho, if_pos (by simpa using hl)]
    · refine (exec_bootEnd hb).trans ?_
      rw [State.bootEnd_dead h0 ho, if_neg (by simp [hl, ha])]

end Sys2Proof.Machine
end

section
/-! Settings that wait for a tick, and the commands that name it (R101, R139, R176, R274, R308, R325). -/

namespace Sys2Proof.Machine

/-! ## Commands on the device that answer with a tick or a refusal -/

/-- The body of a command on the device alone leads to the device and the reply that it computes. -/
theorem onDev_body {f : Form} {layout : Cmd → List (List (Nat × Nat))} {faults : Cmd → List Nat}
    {body : Dev → Cmd → Dev × Reply} {t : State} {c : Cmd} {e : Dev} {r : Reply} (h : body t.dev c = (e, r)) :
    (onDev f layout faults body).body t c = ({ t with dev := e }, r) :=
  congrArg (fun x : Dev × Reply => (({ t with dev := x.1 } : State), x.2)) h

section
variable {i : Instr} {s : State} {slot : SlotId} {f : Form} {layout : Cmd → List (List (Nat × Nat))}
  {faults : Cmd → List Nat} {body : Dev → Cmd → Dev × Reply}

/-- A command on the device whose body answers a tick finishes with ACCEPTED_DEFERRED naming it. -/
theorem defersTo_of_body (he : exec i s = done (s.accept slot (onDev f layout faults body)))
    (h : Ready s slot (onDev f layout faults body)) (hop : f.opcode ∈ opcodes) {d e : Dev} {tick : Nat} {resp : List Word}
    (hb : body (s.dev.take slot) (s.dev.cmdOf slot) = (e, .deferred tick resp)) (hh : e.host = (s.dev.take slot).host)
    (hp : { d with host := e.host, signals := e.signals } = e) : DefersTo i s slot d tick resp :=
  completes_device he h hop d e (.deferred tick resp) (by simp) (onDev_body hb) hh hp

/-- A command on the device whose body fails without any effect is refused, and the device stands. -/
theorem refused_of_body (he : exec i s = done (s.accept slot (onDev f layout faults body)))
    (h : Ready s slot (onDev f layout faults body)) (hop : f.opcode ∈ opcodes) {e : Fail}
    (hb : body (s.dev.take slot) (s.dev.cmdOf slot) = (s.dev.take slot, .fail e)) : Refused i s slot s.dev e :=
  completes_device he h hop s.dev (s.dev.take slot) (.fail e) (by simp) (onDev_body hb) rfl rfl

end

/-! ## The two commands with checks of their own

The checks read no part of the command interface: on the accepted device they are, by definition, those of `s.dev`. -/

/-- ATLAS_APPEND_POLICY needs an open journal (R274). -/
theorem atlasAppendPolicy_cases {s : State} {slot : SlotId} (h : Ready s slot mbAtlasAppendPolicy) :
    if s.dev.atlas.isOpen = true then DefersTo (.atlasAppendPolicy slot) s slot
      (s.dev.onAtlas fun a => { a with pendingPolicy := some (s.dev.nextTick, (s.dev.cmdOf slot).atlasPolicy) })
      s.dev.nextTick []
    else Refused (.atlasAppendPolicy slot) s slot s.dev (failPlain eState) := by
  split
  case isTrue ho => exact defersTo_of_body rfl h (by decide) (if_neg (by simp [ho])) rfl rfl
  case isFalse ho => exact refused_of_body rfl h (by decide) (if_pos (by simp [ho]))

/-- SET_GRATICULE checks the reference, then the budget, and then makes its k pending (R176, R185). -/
theorem setGraticule_cases {s : State} {slot : SlotId} (h : Ready s slot mbSetGraticule) :
    let d := s.dev
    let k := (d.cmdOf slot).f 1 4 0
    let tick := if k = d.tb.k then d.nextTick else d.tickOfK k
    if 20 < k ∧ (d.tb.cfg.refSrc = 2 ∨ d.committedSrc = 2) then Refused (.setGraticule slot) s slot d (failAt eParam 1)
    else if 900 < maxN (d.loads d.committedItems [k] d.engineDepth) then Refused (.setGraticule slot) s slot d (failPlain eBudget)
    else DefersTo (.setGraticule slot) s slot
      (d.onTb fun u => { u with pendingK := some { tick := tick, k := k, counts := true } }) tick [] := by
  intro d k tick
  by_cases hsrc : 20 < k ∧ (d.tb.cfg.refSrc = 2 ∨ d.committedSrc = 2)
  · rw [if_pos hsrc]
    exact refused_of_body rfl h (by decide) (if_pos hsrc)
  by_cases hload : 900 < maxN (d.loads d.committedItems [k] d.engineDepth)
  · rw [if_neg hsrc, if_pos hload]
    exact refused_of_body rfl h (by decide) ((if_neg hsrc).trans (if_pos hload))
  · rw [if_neg hsrc, if_neg hload]
    exact defersTo_of_body rfl h (by decide) ((if_neg hsrc).trans (if_neg hload)) rfl rfl

/-- Settles O23: four commands have no check of their own, and the other two go by the cases of their checks. -/
theorem policiesWaitForTheNextTick : Obligations.PoliciesWaitForTheNextTick := by
  intro s slot c d t
  refine ⟨fun h => ?calPolicy, fun h => ?freezeCal, fun h => ?resultRing, fun h => ?alignArm, atlasAppendPolicy_cases,
    setGraticule_cases⟩
  all_goals exact defersTo_of_body rfl h (by decide) rfl rfl rfl

end Sys2Proof.Machine
end

section
/-! Definitions of items, trigger routes and contour maps, which wait for the next tick (R218, R242, R325, R329, R332). -/

namespace Sys2Proof.Machine

section
variable {i : Instr} {s : State} {slot : SlotId} {f : Form} {layout : Cmd → List (List (Nat × Nat))}
  {faults : Cmd → List Nat} {body : Dev → Cmd → Dev × Reply}

/-- A command on the device whose body defers an effect to the next tick is taken. -/
theorem taken_of_body (he : exec i s = done (s.accept slot (onDev f layout faults body)))
    (h : Ready s slot (onDev f layout faults body)) (hop : f.opcode ∈ opcodes) {e : Effect} {resp : List Word}
    (hb : body (s.dev.take slot) (s.dev.cmdOf slot) = (s.dev.take slot).deferNext (s.dev.cmdOf slot) e resp) :
    Taken i s slot e resp :=
  defersTo_of_body he h hop hb rfl rfl

/-- One whose body is a check and then such an effect is refused by the check, and else its effect waits. -/
theorem checked_of_body (he : exec i s = done (s.accept slot (onDev f layout faults body)))
    (h : Ready s slot (onDev f layout faults body)) (hop : f.opcode ∈ opcodes) {x : Option Fail} {e : Effect}
    {resp : List Word} (hb : body (s.dev.take slot) (s.dev.cmdOf slot) =
      (s.dev.take slot).check x fun d => d.deferNext (s.dev.cmdOf slot) e resp) :
    Checked i s slot x (s.dev.defer s.dev.nextTick (s.dev.cmdOf slot).opcode e) eDeferred
      (w36 s.dev.nextTick :: resp) := by
  cases x with
  | some _ => exact refused_of_body he h hop hb
  | none => exact taken_of_body he h hop hb

end

/-! ## The checks and the pages of DEFINE_CONTOUR

They read no part of the command interface, so that acceptance leaves them as they were. -/

section
variable (d : Dev) (slot n : Nat)

@[simp] theorem Dev.take_contourFail (m : MapCfg) : (d.take slot).contourFail n m = d.contourFail n m := rfl
@[simp] theorem Dev.take_mapBase : (d.take slot).mapBase n = d.mapBase n := rfl
@[simp] theorem Dev.take_runs (x : Option Nat) : (d.take slot).runs x = d.runs x := rfl

end

/-- DEFINE_CONTOUR by its cases: KIND 0 deletes the map; a definition that the checks pass keeps the map's pages, or takes
the lowest free ones where there are any (R242, R249, R329). -/
theorem defineContour_cases {s : State} {slot : SlotId} (h : Ready s slot mbDefineContour) :
    let d := s.dev
    let n := (d.cmdOf slot).f 1 35 32
    let m := (d.cmdOf slot).mapCfg
    if m.kind = 0 then Taken (.defineContour slot) s slot (.deleteContour n) [w36 ((d.mapBase n).getD 0)]
    else match d.contourFail n m with
      | some f => Refused (.defineContour slot) s slot d f
      | none =>
        match (d.mapBase n).or ((firstFit (d.runs none) mapPages).map (· * pageSize)) with
        | some base => Taken (.defineContour slot) s slot (.contour n m base) [w36 base]
        | none => Refused (.defineContour slot) s slot d (failPlain eResource) := by
  intro d n m
  split
  case isTrue hk => exact taken_of_body rfl h (by decide) (if_pos hk)
  case isFalse hk =>
    cases hf : d.contourFail n m with
    | some f => exact refused_of_body rfl h (by decide) (by simp [d, n, m, hk, hf, Dev.check])
    | none =>
      cases hb : d.mapBase n with
      | some base => exact taken_of_body rfl h (by decide) (by simp [d, n, m, hk, hf, hb, Dev.check])
      | none =>
        cases hp : firstFit (d.runs none) mapPages with
        | some page => exact taken_of_body rfl h (by decide) (by simp [d, n, m, hk, hf, hb, hp, Dev.check])
        | none => exact refused_of_body rfl h (by decide) (by simp [d, n, m, hk, hf, hb, hp, Dev.check])

/-- Settles O21: two of the commands are a check and then an effect that waits, and DEFINE_CONTOUR goes by its cases. -/
theorem definitionsWaitForTheNextTick : Obligations.DefinitionsWaitForTheNextTick := by
  intro s slot c d waits
  exact ⟨fun h => checked_of_body rfl h (by decide) rfl, fun h => checked_of_body rfl h (by decide) rfl,
    defineContour_cases⟩

end Sys2Proof.Machine
end

section
/-! LOAD_SETTINGS, whose settings wait for the tick of the bank's k (R176, R191, R331, R370). -/

namespace Sys2Proof.Machine

/-- The tick that LOAD_SETTINGS names: the next one where the bank's k is the one in force, and else the first at which that
k may apply (R176). -/
def Dev.loadTick (d : Dev) (k : Nat) : Nat := if k = d.tb.k then d.nextTick else d.tickOfK k

/-- The device with a bank's settings waiting for that tick, and with the bank's k pending for it. -/
def Dev.awaitBank (d : Dev) (bankB : Bool) (bank : Bank) : Dev :=
  let k := bank.settings.k
  (d.onTb fun u => { u with pendingK := some { tick := d.loadTick k, k := k, counts := false } }).defer (d.loadTick k) 0x802
    (.loadSettings bankB bank.settings [])

section
variable {t : State} {c : Cmd}

theorem State.loadBody_of_named_none (h : (t.watch.gaz.readable t.dev.gs.fwVersion).named (c.f 1 1 0) = none) :
    t.loadBody c = (t, .fail (failAt eNvm 1)) := by
  simp only [State.loadBody, h]

theorem State.loadBody_of_named_some {bankB : Bool} {bank : Bank}
    (h : (t.watch.gaz.readable t.dev.gs.fwVersion).named (c.f 1 1 0) = some (bankB, bank)) :
    t.loadBody c = ({ t with dev := t.dev.awaitBank bankB bank }, .deferred (t.dev.loadTick bank.settings.k) []) := by
  simp only [State.loadBody, h, Dev.awaitBank, Dev.loadTick]

end

section
variable {s : State} {slot : SlotId}

/-- LOAD_SETTINGS without a bank to load fails, and the device stands. -/
theorem loadSettings_refused (h : Ready s slot mbLoadSettings)
    (hb : (s.watch.gaz.readable s.dev.gs.fwVersion).named ((s.dev.cmdOf slot).f 1 1 0) = none) :
    Refused (.loadSettings slot) s slot s.dev (failAt eNvm 1) :=
  completes_device rfl h (by decide) s.dev (s.dev.take slot) (.fail (failAt eNvm 1)) (by simp)
    (State.loadBody_of_named_none hb) rfl rfl

/-- LOAD_SETTINGS of a bank leaves it waiting and names the tick: acceptance changes neither k nor the frame. -/
theorem loadSettings_defersTo (h : Ready s slot mbLoadSettings) {bankB : Bool} {bank : Bank}
    (hb : (s.watch.gaz.readable s.dev.gs.fwVersion).named ((s.dev.cmdOf slot).f 1 1 0) = some (bankB, bank)) :
    DefersTo (.loadSettings slot) s slot (s.dev.awaitBank bankB bank) (s.dev.loadTick bank.settings.k) [] :=
  completes_device rfl h (by decide) (s.dev.awaitBank bankB bank) ((s.dev.take slot).awaitBank bankB bank)
    (.deferred (s.dev.loadTick bank.settings.k) []) (by simp) (State.loadBody_of_named_some hb) rfl rfl

end

/-- Settles O24, by whether the Gazetteer has the bank that the command names. -/
theorem loadSettingsNamesItsTick : Obligations.LoadSettingsNamesItsTick := by
  intro s slot h c d
  split
  next hb => exact loadSettings_refused h hb
  next bankB bank hb => exact loadSettings_defersTo h hb

end Sys2Proof.Machine
end

section
/-! The coding of BF36: the smallest exponent whose rounded mantissa fits, and saturation above (R210). -/

namespace Sys2Proof.Machine

/-- n / (d × 2^e) rounded half up: the mantissa that exponent e gives to n / d. -/
def bfMantissa (n d e : Nat) : Nat := (2 * n + d * 2 ^ e) / (2 * (d * 2 ^ e))

section
variable {n d : Nat}

/-- The search for an exponent stops where the mantissa fits. -/
theorem bfExp_succ (f e : Nat) :
    bfExp n d (f + 1) e = if bfMantissa n d e < 2 ^ 30 then e else bfExp n d f (e + 1) := by
  rw [bfExp, bfMantissa, Nat.mul_assoc]

/-- The search from e on finds the smallest exponent that fits, if its fuel reaches that far. -/
theorem bfExp_eq_of_least {k : Nat} (hk : bfMantissa n d k < 2 ^ 30) (f : Nat) :
    ∀ e, e ≤ k → k < e + f → (∀ i, e ≤ i → i < k → 2 ^ 30 ≤ bfMantissa n d i) → bfExp n d f e = k := by
  induction f with
  | zero => intro e h1 h2; omega
  | succ f ih =>
    intro e h1 h2 hl
    rw [bfExp_succ]
    rcases Nat.eq_or_lt_of_le h1 with rfl | h
    · exact if_pos hk
    · rw [if_neg (Nat.not_lt.mpr (hl e (Nat.le_refl e) h))]
      exact ih (e + 1) h (by omega) fun i hi => hl i (by omega)

/-- Where no exponent fits, the search uses up its fuel. -/
theorem bfExp_eq_of_none (f : Nat) :
    ∀ e, (∀ i, e ≤ i → i < e + f → 2 ^ 30 ≤ bfMantissa n d i) → bfExp n d f e = e + f := by
  induction f with
  | zero => intro e _; rfl
  | succ f ih =>
    intro e hl
    rw [bfExp_succ, if_neg (Nat.not_lt.mpr (hl e (Nat.le_refl e) (by omega))),
      ih (e + 1) fun i h1 h2 => hl i (by omega) (by omega)]
    omega

/-- A value above 0 is coded with the exponent found, or saturates past the last one. -/
theorem bfCode_eq (hn : 0 < n) (hd : 0 < d) :
    bfCode n d = if 63 < bfExp n d 64 0 then (word [(35, 30, 63), (29, 0, 2 ^ 30 - 1)], true)
      else (word [(35, 30, bfExp n d 64 0), (29, 0, bfMantissa n d (bfExp n d 64 0))], false) := by
  simp only [bfCode, bfMantissa, Nat.mul_assoc, Nat.ne_of_gt hn, Nat.ne_of_gt hd, or_self, if_false, gt_iff_lt]

end

/-- The word of an exponent and a mantissa within their widths holds both. -/
theorem fld_bfWord {e m : Nat} (he : e ≤ 63) (hm : m < 2 ^ 30) :
    fld (word [(35, 30, e), (29, 0, m)]) 35 30 = e ∧ fld (word [(35, 30, e), (29, 0, m)]) 29 0 = m := by
  have hw : (word [(35, 30, e), (29, 0, m)]).toNat = e * 2 ^ 30 + m := by
    simp only [word, packNat, BitVec.toNat_ofNat]
    omega
  simp only [fld, hw, Nat.shiftRight_eq_div_pow]
  omega

/-- Settles O58: the search for an exponent finds the smallest that fits, or none, and the word holds what it is made of. -/
theorem bf36HasOneCoding : Obligations.Bf36HasOneCoding := by
  intro n d hd m
  refine ⟨fun h0 => ?zero, fun hn e he hm hl => ?fits, fun hn hl => ?saturates⟩
  case zero => simp [bfCode, h0]
  case fits =>
    have hx : bfExp n d 64 0 = e := bfExp_eq_of_least hm 64 0 (Nat.zero_le e) (by omega) fun i _ => hl i
    rw [bfCode_eq hn hd, hx, if_neg (Nat.not_lt.mpr he)]
    exact ⟨rfl, fld_bfWord he hm⟩
  case saturates =>
    have hx : bfExp n d 64 0 = 0 + 64 := bfExp_eq_of_none 64 0 fun i _ hi => hl i (by omega)
    rw [bfCode_eq hn hd, hx, if_pos (by decide)]
    exact ⟨rfl, fld_bfWord (Nat.le_refl 63) (by decide)⟩

end Sys2Proof.Machine
end

section
/-! Chunks of coefficient sets and masks: staged until the whole is there, discarded where one does not follow in order
(R203, R215, R326, R332). -/

namespace Sys2Proof.Machine

/-! ## Commands on the device that keep an effect for a fault of their words -/

/-- A command is on the device alone: its body takes the device to what `body` computes. -/
def MbCommand.OnDev (m : MbCommand) (body : Dev → Cmd → Dev × Reply) : Prop :=
  ∀ t c, m.body t c = ({ t with dev := (body t.dev c).1 }, (body t.dev c).2)

theorem mbCoefficientChunk_onDev : mbCoefficientChunk.OnDev Dev.coefChunk := fun _ _ => rfl
theorem mbDefineMask_onDev : mbDefineMask.OnDev Dev.maskChunk := fun _ _ => rfl

section
variable {i : Instr} {s : State} {slot : SlotId} {m : MbCommand} {body : Dev → Cmd → Dev × Reply} {d e : Dev} {r : Reply}

/-- A command on the device alone that answers at once completes with the device and the answer of its body. -/
theorem completes_of_onDev (hm : m.OnDev body) (he : exec i s = done (s.accept slot m)) (h : Ready s slot m)
    (hop : m.form.opcode ∈ opcodes) (hr : r ≠ .running) (hb : body (s.dev.take slot) (s.dev.cmdOf slot) = (e, r))
    (hh : e.host = (s.dev.take slot).host) (hp : { d with host := e.host, signals := e.signals } = e) :
    Completes i s slot d r.failed r.code r.out :=
  completes_device he h hop d e r hr (by rw [hm, hb]) hh hp

/-- One whose body is a check and then a result is refused by the check, and else completes. -/
theorem checked_of_onDev (hm : m.OnDev body) (he : exec i s = done (s.accept slot m)) (h : Ready s slot m)
    (hop : m.form.opcode ∈ opcodes) {f : Option Fail} (hr : r ≠ .running) (hfl : r.failed = false)
    (hb : body (s.dev.take slot) (s.dev.cmdOf slot) = (s.dev.take slot).check f fun _ => (e, r))
    (hh : e.host = (s.dev.take slot).host) (hp : { d with host := e.host, signals := e.signals } = e) :
    Checked i s slot f d r.code r.out :=
  checked_device he h hop f d e r hr hfl (by rw [hm, hb]) hh hp

/-- A command with a fault of its words fails naming the word; the device is what the command keeps of it (R326). -/
theorem refused_fault {n : Nat} (h : mailboxOf i = some (slot, m)) (hn : s.dev.next m.form slot = true)
    (hb : m.form.badHeader (s.dev.cmdOf slot) = false) (hf : leastFault (m.faultsOf (s.dev.cmdOf slot)) = some n)
    (hr : m.faultResp (s.dev.take slot) = []) (he : m.onFault (s.dev.take slot) (s.dev.cmdOf slot) = e)
    (hp : { d with host := e.host, signals := e.signals } = e) : Refused i s slot d (failAt eParam n) := by
  have hx := refused_param h hn rfl (Dev.refusal_fault hb hf)
  rw [hr, he] at hx
  exact hx.parts hp

end

/-! ## The chunks by their cases -/

section
variable {d : Dev} {c : Cmd}

/-- The set that a chunk leads to on this device. -/
def Dev.nextSet (d : Dev) (c : Cmd) : Option CoefSet := chunkSet (d.survey.coefStaging.getD (c.f 1 35 31) none) c

/-- The segments that a chunk leads to on this device, with the number wanted. -/
def Dev.nextMask (d : Dev) (c : Cmd) : Option (Nat × List Segment) :=
  chunkMask (d.survey.maskStaging.getD (c.f 1 35 30) none) c

theorem Dev.coefChunk_unordered (h : d.nextSet c = none) : d.coefChunk c = (d.stageCoef (c.f 1 35 31) none,
    .fail (failAt eParam (chunkFault (d.survey.coefStaging.getD (c.f 1 35 31) none) c))) := by
  rw [Dev.nextSet] at h
  simp only [Dev.coefChunk, h]

theorem Dev.coefChunk_staged {x : CoefSet} (h : d.nextSet c = some x) (hx : x.taps.length < x.total) :
    d.coefChunk c = (d.stageCoef (c.f 1 35 31) (some x), .deferred d.nextTick []) := by
  rw [Dev.nextSet] at h
  simp only [Dev.coefChunk, h, if_pos hx]

theorem Dev.coefChunk_last {x : CoefSet} (h : d.nextSet c = some x) (hx : ¬x.taps.length < x.total) :
    d.coefChunk c = d.check (firstFail [(d.guardFails (c.f 1 35 31) x, failAt eParam 1),
        (d.setBudget (c.f 1 35 31) x c.opcode, failPlain eBudget)]) fun _ =>
      (d.stageCoef (c.f 1 35 31) none).deferNext c (.coefSet (c.f 1 35 31) x) [] := by
  rw [Dev.nextSet] at h
  simp only [Dev.coefChunk, h, if_neg hx]
  rfl

theorem Dev.coefDiscard_unordered (h : d.nextSet c = none) : d.coefDiscard c = d.stageCoef (c.f 1 35 31) none := by
  rw [Dev.nextSet] at h
  simp only [Dev.coefDiscard, h, Option.isNone_none, Dev.when_true]

theorem Dev.coefDiscard_ordered (h : ¬d.nextSet c = none) : d.coefDiscard c = d := by
  rw [Dev.nextSet, ← Option.isNone_iff_eq_none, Bool.not_eq_true] at h
  simp only [Dev.coefDiscard, h, Dev.when_false]

theorem Dev.maskChunk_unordered (h : d.nextMask c = none) :
    d.maskChunk c = (d.stageMask (c.f 1 35 30) none, .fail (failAt eParam 1)) := by
  rw [Dev.nextMask] at h
  simp only [Dev.maskChunk, h]

theorem Dev.maskChunk_staged {x : Nat × List Segment} (h : d.nextMask c = some x) (hx : x.2.length < x.1) :
    d.maskChunk c = (d.stageMask (c.f 1 35 30) (some x), .deferred d.nextTick []) := by
  rw [Dev.nextMask] at h
  simp only [Dev.maskChunk, h, if_pos hx]

theorem Dev.maskChunk_last {x : Nat × List Segment} (h : d.nextMask c = some x) (hx : ¬x.2.length < x.1) :
    d.maskChunk c = (d.stageMask (c.f 1 35 30) none).deferNext c (.mask (c.f 1 35 30) x.2) [] := by
  rw [Dev.nextMask] at h
  simp only [Dev.maskChunk, h, if_neg hx]

theorem Dev.maskDiscard_unordered (h : d.nextMask c = none) : d.maskDiscard c = d.stageMask (c.f 1 35 30) none := by
  rw [Dev.nextMask] at h
  simp only [Dev.maskDiscard, h, Option.isNone_none, Dev.when_true]

theorem Dev.maskDiscard_ordered (h : ¬d.nextMask c = none) : d.maskDiscard c = d := by
  rw [Dev.nextMask, ← Option.isNone_iff_eq_none, Bool.not_eq_true] at h
  simp only [Dev.maskDiscard, h, Dev.when_false]

end

/-- Settles O22: whether the chunk follows in order, and whether it is the last, decides what it does; for a fault of its
words, whether it follows. -/
theorem chunksAreStagedUntilWhole : Obligations.ChunksAreStagedUntilWhole := by
  intro s slot c d t
  refine ⟨fun h => ?coef, fun h => ?mask, fun i hn hb hf => ?coefFault, fun i hn hb hf => ?maskFault⟩
  case coef =>
    intro n stage
    have hcode : mbCoefficientChunk.form.opcode ∈ opcodes := by decide
    split
    next hx => exact completes_of_onDev mbCoefficientChunk_onDev rfl h hcode (by simp) (Dev.coefChunk_unordered hx) rfl rfl
    next x hx =>
      split
      case isTrue hl =>
        exact completes_of_onDev mbCoefficientChunk_onDev rfl h hcode (by simp) (Dev.coefChunk_staged hx hl) rfl rfl
      case isFalse hl =>
        exact checked_of_onDev mbCoefficientChunk_onDev rfl h hcode (by simp) rfl (Dev.coefChunk_last hx hl) rfl rfl
  case mask =>
    intro n stage
    have hcode : mbDefineMask.form.opcode ∈ opcodes := by decide
    split
    next hx => exact completes_of_onDev mbDefineMask_onDev rfl h hcode (by simp) (Dev.maskChunk_unordered hx) rfl rfl
    next x hx =>
      split
      case isTrue hl =>
        exact completes_of_onDev mbDefineMask_onDev rfl h hcode (by simp) (Dev.maskChunk_staged hx hl) rfl rfl
      case isFalse hl =>
        exact completes_of_onDev mbDefineMask_onDev rfl h hcode (by simp) (Dev.maskChunk_last hx hl) rfl rfl
  case coefFault =>
    intro n
    split
    case isTrue hx => exact refused_fault rfl hn hb hf rfl (Dev.coefDiscard_unordered hx) rfl
    case isFalse hx => exact refused_fault rfl hn hb hf rfl (Dev.coefDiscard_ordered hx) rfl
  case maskFault =>
    intro n
    split
    case isTrue hx => exact refused_fault rfl hn hb hf rfl (Dev.maskDiscard_unordered hx) rfl
    case isFalse hx => exact refused_fault rfl hn hb hf rfl (Dev.maskDiscard_ordered hx) rfl

end Sys2Proof.Machine
end

section
/-! Forced triggers, renders, the legend, CRC rectangles and chart buffers (R222, R251, R253 to R255, R264). -/

namespace Sys2Proof.Machine

/-! ## DEFINE_CHART_BUFFER by its cases (R254, R255) -/

section
variable (d : Dev) (c : Cmd)

/-- Why the buffer that the command names cannot change now, or no buffer can. -/
def Dev.bufferFail : Option Fail :=
  firstFail [((match d.buffer (c.f 1 35 32) with | some b => d.cap.chart.inUse b | none => false), failPlain eBusy)] <|>
    d.partsFault [partCapture, partChart]

/-- The device without the buffer that the command names. -/
def Dev.withoutBuffer : Dev := d.onChart fun x => x.dropBuffer (c.f 1 35 32)

/-- The lowest page from which on the command's buffer finds room, in place of the one of its number. -/
def Dev.bufferPage : Option Nat := firstFit ((d.withoutBuffer c).runs none) (c.buffer 0).pages

/-- The device with the command's buffer from that page on. -/
def Dev.withBuffer (page : Nat) : Dev :=
  (d.withoutBuffer c).onChart fun x => { x with buffers := x.buffers ++ [c.buffer (page * pageSize)] }

/-- What DEFINE_CHART_BUFFER does and answers. -/
def Dev.defineBuffer : Dev × Reply :=
  d.check (d.bufferFail c) fun e =>
    if c.f 1 31 19 = 0 then (e.withoutBuffer c, .ok [w36 0, w36 0])
    else match e.bufferPage c with
      | none => (e, .fail (failPlain eResource))
      | some page =>
        let b := c.buffer (page * pageSize)
        (e.withBuffer c page, .ok [w36 b.base, w36 b.stride])

theorem mbDefineChartBuffer_onDev : mbDefineChartBuffer.OnDev Dev.defineBuffer := fun _ _ => rfl

end

section
variable {d : Dev} {c : Cmd}

theorem Dev.defineBuffer_refused {f : Fail} (h : d.bufferFail c = some f) : d.defineBuffer c = (d, .fail f) := by
  simp only [Dev.defineBuffer, h, Dev.check]

theorem Dev.defineBuffer_deletes (h : d.bufferFail c = none) (h0 : c.f 1 31 19 = 0) :
    d.defineBuffer c = (d.withoutBuffer c, .ok [w36 0, w36 0]) := by
  simp only [Dev.defineBuffer, h, Dev.check, if_pos h0]

theorem Dev.defineBuffer_noRoom (h : d.bufferFail c = none) (h0 : c.f 1 31 19 ≠ 0) (hp : d.bufferPage c = none) :
    d.defineBuffer c = (d, .fail (failPlain eResource)) := by
  simp only [Dev.defineBuffer, h, Dev.check, if_neg h0, hp]

theorem Dev.defineBuffer_places {page : Nat} (h : d.bufferFail c = none) (h0 : c.f 1 31 19 ≠ 0)
    (hp : d.bufferPage c = some page) : d.defineBuffer c = (d.withBuffer c page,
      .ok [w36 (c.buffer (page * pageSize)).base, w36 (c.buffer (page * pageSize)).stride]) := by
  simp only [Dev.defineBuffer, h, Dev.check, if_neg h0, hp]

end

/-- Settles O28: FORCE_TRIGGER has no check, three commands are a check and then one effect, and DEFINE_CHART_BUFFER goes by
its checks, its width and the room in the store. -/
theorem triggersRendersAndRectangles : Obligations.TriggersRendersAndRectangles := by
  intro s slot c d
  refine ⟨fun h => ?trigger, fun h => ?render, fun h => ?legend, fun h => ?rect, fun h => ?buffer⟩
  case trigger => exact defersTo_of_body rfl h (by decide) rfl rfl rfl
  case render => exact checked_device rfl h (by decide) _ _ _ (.deferred d.nextTick []) (by simp) rfl rfl rfl rfl
  case legend => exact checked_device rfl h (by decide) _ _ _ (.ok []) (by simp) rfl rfl rfl rfl
  case rect => exact checked_device rfl h (by decide) _ _ _ (.ok []) (by simp) rfl rfl rfl rfl
  case buffer =>
    intro n busy without
    have hcode : mbDefineChartBuffer.form.opcode ∈ opcodes := by decide
    split
    next f hf =>
      exact completes_of_onDev mbDefineChartBuffer_onDev rfl h hcode (by simp) (Dev.defineBuffer_refused hf) rfl rfl
    next hf =>
      split
      case isTrue h0 =>
        exact completes_of_onDev mbDefineChartBuffer_onDev rfl h hcode (by simp) (Dev.defineBuffer_deletes hf h0) rfl rfl
      case isFalse h0 =>
        split
        next hp =>
          exact completes_of_onDev mbDefineChartBuffer_onDev rfl h hcode (by simp) (Dev.defineBuffer_noRoom hf h0 hp) rfl rfl
        next page hp =>
          exact completes_of_onDev mbDefineChartBuffer_onDev rfl h hcode (by simp) (Dev.defineBuffer_places hf h0 hp) rfl rfl

end Sys2Proof.Machine
end
